-- ==== Sys2Proof/Word.lean ====
section
/-! DEFINITION. The two word types of the block (R9): `u8` and `u16`. -/

namespace Sys2Proof

/-- `u8` of R9: a received byte, a returned byte, a register index. -/
abbrev Byte := BitVec 8

/-- `u16` of R9: a register, a measurement, an event word. -/
abbrev Word := BitVec 16

end Sys2Proof
end

