-- ==== Sys2Proof/Config.lean ====
section
/-! DEFINITION. The implementation parameters of R6 (00_scope.md). The two a model must be able to vary are the
fields of `Config`; what the spec fixes is a constant; what it leaves OPEN is a constant without a value. -/

namespace Sys2Proof

/-- The parameters a run fixes (R6, R15, R129). The spec calls them no state; a `State` carries them as data that
no event writes (DESIGN CHOICE, safe: notes/assumptions/1.md). -/
structure Config where
  /-- `I2C_ADDR`: the static 7-bit input (R6, R27). -/
  i2cAddr : BitVec 7
  /-- `RX_IDLE_BITS`: the idle bit-times that end a burst (R62). Only the UART receiver front-end reads it. The
  spec gives a default and no legal range; every number is taken (DESIGN CHOICE, unsafe at 0:
  notes/assumptions/22.md). -/
  rxIdleBits : Nat
deriving DecidableEq, Repr

/-- The defaults of R6: address `0x2D`, 32 idle bit-times. -/
def Config.default : Config := { i2cAddr := 0x2D, rxIdleBits := 32 }

/-- `MARKER`, first byte (R6, R60). -/
def Config.marker0 : Byte := 0x42

/-- `MARKER`, second byte (R6, R60). -/
def Config.marker1 : Byte := 0x4D

/-- `SENTINEL` (R6, R45): what an index that names no slot reads as. -/
def Config.sentinel : Word := 0x0000

/-- `FRAME_LEN` (R6, R59): the bytes of a frame, first marker byte to last PM10 byte. -/
def Config.frameLen : Nat := 10

/-- `NREG` (R6, R44): the indices below it name slots. -/
def Config.nreg : Nat := 4

/-- `TXQ_DEPTH` (R6, R31). -/
def Config.txqDepth : Nat := 2

/-- `UART_BAUD` (R6). The timing it fixes (R142) is timing that no rule depends on. -/
def Config.uartBaud : Nat := 9600

/-- The bit-times of a UART character: a start bit, 8 data bits, no parity, 1 stop bit (R6, R58). -/
def Config.uartCharBits : Nat := 10

/-- `CLK_HZ` is OPEN (R6, D22): it has no value here, and no rule reads it (notes/assumptions/15.md). -/
opaque Config.clkHz : Nat

/-- `I2C_BUS_HZ` is OPEN (R6, D22): it has no value here, and no rule reads it (notes/assumptions/15.md). -/
opaque Config.i2cBusHz : Nat

end Sys2Proof
end

