-- ==== Sys2Proof/Syntax.lean ====
section
/-! DEFINITION. The block's instructions: the eight events of R56, one constructor for each row of
spec/opcode_table.json. -/

namespace Sys2Proof

/-- The events of R56. Every operand is a byte (`u8`), so every term of this type is a well-formed event. -/
inductive Instr where
  /-- `RX_BYTE(b)`: the UART receiver delivered byte `b` (R76). -/
  | rxByte (b : Byte)
  /-- `RX_IDLE`: the current burst ended (R86). -/
  | rxIdle
  /-- `I2C_ADDR_W`: START or repeated START addressed to the block, write direction (R92). -/
  | i2cAddrW
  /-- `I2C_ADDR_R`: START or repeated START addressed to the block, read direction (R93). -/
  | i2cAddrR
  /-- `I2C_WR_BYTE(d)`: the master wrote data byte `d`, a register-select (R94). -/
  | i2cWrByte (d : Byte)
  /-- `I2C_RD_BYTE`: the master clocks one byte out of the block (R101). -/
  | i2cRdByte
  /-- `I2C_STOP`: STOP ends the transfer (R104). -/
  | i2cStop
  /-- `RESET`: the reset input is asserted (R126). -/
  | reset
deriving DecidableEq, Repr

end Sys2Proof
end

