-- ==== Sys2Proof/WellFormed.lean ====
section
/-! DEFINITION. The checks the spec makes on what comes from outside: the legal range of `I2C_ADDR` (R129) and the
form of an event word, field by field (R57, R71). An `Instr` needs no check: its operands are bytes by type (R56). -/

namespace Sys2Proof

/-- `I2C_ADDR` lies in `0x08` to `0x77` inclusive (R6, R129). -/
def Config.legal (c : Config) : Bool :=
  decide (0x08 ≤ c.i2cAddr) && decide (c.i2cAddr ≤ 0x77)

/-- The field `kind`, bits 15:12 of an event word (R57). -/
def wordKind (e : Word) : BitVec 4 := e.extractLsb' 12 4

/-- The field `zero`, bits 11:8 of an event word (R57). -/
def wordZero (e : Word) : BitVec 4 := e.extractLsb' 8 4

/-- The field `data`, bits 7:0 of an event word (R57). -/
def wordData (e : Word) : Byte := e.extractLsb' 0 8

/-- The kinds that carry an operand byte: `RX_BYTE` and `I2C_WR_BYTE` (R57). -/
def kindHasOperand (k : BitVec 4) : Bool := k == 0x1 || k == 0x5

/-- The form of an event word by its fields: a kind from `0x1` to `0x8`, bits 11:8 zero, and data `0x00` for a kind
without an operand. Every other word is reserved (R71). -/
def wordWellFormed (e : Word) : Bool :=
  decide (0x1 ≤ wordKind e) && decide (wordKind e ≤ 0x8) && wordZero e == 0
    && (kindHasOperand (wordKind e) || wordData e == 0)

end Sys2Proof
end

