-- ==== Sys2Proof/Decode.lean ====
section
/-! DEFINITION. The decoder of the event word, from the event map of R70 (30_encoding.md), total on all 65536 words;
the encoder beside it; and for every constructor a word written out from the spec's encoding of it. -/

namespace Sys2Proof

/-- Why a word is no event. -/
inductive DecodeError where
  /-- The word matches no row of the event map: `refuse(ReservedEvent)` (R71). -/
  | reservedEvent (e : Word)
deriving DecidableEq, Repr

/-- A row of the event map (R70): `e` is its event when `e & mask = pattern`; the operand is `e[7:0]`. -/
structure EventRow where
  mnemonic : String
  pattern : Word
  mask : Word
  event : Byte → Instr

/-- The event map of R70, in the table's order. -/
def eventRows : List EventRow :=
  [ ⟨"RX_BYTE",     0x1000, 0xFF00, fun b => .rxByte b⟩,
    ⟨"RX_IDLE",     0x2000, 0xFFFF, fun _ => .rxIdle⟩,
    ⟨"I2C_ADDR_W",  0x3000, 0xFFFF, fun _ => .i2cAddrW⟩,
    ⟨"I2C_ADDR_R",  0x4000, 0xFFFF, fun _ => .i2cAddrR⟩,
    ⟨"I2C_WR_BYTE", 0x5000, 0xFF00, fun d => .i2cWrByte d⟩,
    ⟨"I2C_RD_BYTE", 0x6000, 0xFFFF, fun _ => .i2cRdByte⟩,
    ⟨"I2C_STOP",    0x7000, 0xFFFF, fun _ => .i2cStop⟩,
    ⟨"RESET",       0x8000, 0xFFFF, fun _ => .reset⟩ ]

/-- `e & mask = match` of R70. -/
def EventRow.accepts (r : EventRow) (e : Word) : Bool := e &&& r.mask == r.pattern

/-- The decoder (R57, R70, R71). -/
def decode (e : Word) : Except DecodeError Instr :=
  match eventRows.find? (fun r => r.accepts e) with
  | some r => .ok (r.event (wordData e))
  | none => .error (.reservedEvent e)

/-- An event word from its kind and its data, bits 11:8 zero (R57). -/
def eventWord (kind : BitVec 4) (data : Byte) : Word := kind ++ (0 : BitVec 4) ++ data

/-- The encoder (R57, R70). -/
def encode : Instr → Word
  | .rxByte b => eventWord 0x1 b
  | .rxIdle => eventWord 0x2 0
  | .i2cAddrW => eventWord 0x3 0
  | .i2cAddrR => eventWord 0x4 0
  | .i2cWrByte d => eventWord 0x5 d
  | .i2cRdByte => eventWord 0x6 0
  | .i2cStop => eventWord 0x7 0
  | .reset => eventWord 0x8 0

/-- The event word among the low `nbits` bits of `w`. An event word is always 16 bits (R72(d)), so a number that does
not fit in 16 bits is none. -/
def tableWord (nbits w : Nat) : Option Word :=
  if w % 2 ^ nbits < 2 ^ 16 then some (BitVec.ofNat 16 (w % 2 ^ nbits)) else none

/-- What the decoder reads from the table's numbering of a word: bit 0 is the event word's bit 0 (R9). -/
def decodeTableWord (nbits w : Nat) : Option Instr :=
  match tableWord nbits w with
  | none => none
  | some e =>
    match decode e with
    | .ok i => some i
    | .error _ => none

-- One word for each constructor, from the tables of R73 (30_encoding.md) and Part 4 of 95_test_vectors.md.
theorem decode_1042 : decode 0x1042 = .ok (.rxByte 0x42) := rfl
theorem decode_2000 : decode 0x2000 = .ok .rxIdle := rfl
theorem decode_3000 : decode 0x3000 = .ok .i2cAddrW := rfl
theorem decode_4000 : decode 0x4000 = .ok .i2cAddrR := rfl
theorem decode_50FF : decode 0x50FF = .ok (.i2cWrByte 0xFF) := rfl
theorem decode_6000 : decode 0x6000 = .ok .i2cRdByte := rfl
theorem decode_7000 : decode 0x7000 = .ok .i2cStop := rfl
theorem decode_8000 : decode 0x8000 = .ok .reset := rfl

end Sys2Proof
end

