-- ==== Sys2Proof/Machine/State.lean ====
section
/-! DEFINITION. The block's state (10_state.md), the pending events and the state of its two front-ends
(30_encoding.md, 60_exceptions.md), what the environment does to it, and its value after reset (R34). -/

namespace Sys2Proof.Machine

/-- Why the machine stops with a fault: never. The block raises no exception, trap or error signal, and no event
stops it (R109, R117). Nothing raises a fault, so there is nothing safe or unsafe about one. -/
inductive Fault where
deriving DecidableEq, Repr

/-- Why a model gives an input no meaning (R114). A refusal ends the run. -/
inductive Refusal where
  /-- An arm of `exec` without a meaning. No arm raises it. Safe: the run stops. -/
  | notModelled (mnemonic : String)
  /-- `ReservedEvent`: raised when a reserved word arrives (R71, R114). Safe: the hardware cannot produce one. -/
  | reservedEvent (e : Word)
  /-- `WrongDirection`: raised by I2C_WR_BYTE outside a write transfer and by I2C_RD_BYTE outside a read transfer
  (R94, R101, R114). Safe: the front-end never produces them. -/
  | wrongDirection
  /-- `BadConfig`: raised by every step, and by RESET, of a run whose `I2C_ADDR` is out of range (R114, R126, R129).
  Safe: the spec says nothing of such a run. -/
  | badConfig
deriving DecidableEq, Repr

/-- The Register Store `REG[0..3]` (R16), under the names of the register map (R44). -/
structure RegStore where
  /-- `REG[0]`, the identity (R23). -/
  id : Word
  /-- `REG[1]` (R24). -/
  pm1 : Word
  /-- `REG[2]` (R24). -/
  pm25 : Word
  /-- `REG[3]` (R24). -/
  pm10 : Word
deriving DecidableEq, Repr

/-- The parser's control states (R17). -/
inductive PState where
  | searching
  | consumingHeader
  | consumingField1
  | consumingField2
  | consumingField3
deriving DecidableEq, Repr

/-- What the Parser owns (R36, R75). -/
structure Parser where
  /-- R17 -/
  pstate : PState
  /-- R18: one bit, 0 or 1. -/
  cnt : Fin 2
  /-- `win_v` of the lookahead window (R19). -/
  winV : Bool
  /-- `win` of the lookahead window (R19). -/
  win : Byte
  /-- The high byte of the field being assembled (R20). -/
  hi : Byte
  /-- PM1 of the frame in progress (R21). -/
  stage1 : Word
  /-- PM2.5 of the frame in progress (R21). -/
  stage2 : Word
  /-- The level of the status output (R22). -/
  status : Bool
deriving DecidableEq, Repr

/-- The direction of the transfer now addressed to the block (R32). -/
inductive Phase where
  | none
  | write
  | read
deriving DecidableEq, Repr

/-- What the Responder owns (R36, R91). -/
structure Responder where
  /-- `sel_valid`: false is Idle, true is RegisterSelected (R29). -/
  selValid : Bool
  /-- `sel`, the selected index (R30). -/
  sel : Byte
  /-- `txq`, the transmit queue, head first (R31). -/
  txq : List Byte
  /-- R32 -/
  phase : Phase
deriving DecidableEq, Repr

/-- The events of the UART source (R110). -/
inductive UartEvent where
  | rxByte (b : Byte)
  | rxIdle
deriving DecidableEq, Repr

/-- The events of the I2C source (R110). -/
inductive I2cEvent where
  | addrW
  | addrR
  | wrByte (d : Byte)
  | rdByte
  | stop
deriving DecidableEq, Repr

/-- Where the I2C target front-end stands on the bus (R65). -/
inductive BusMode where
  /-- No transfer since the last STOP or reset. -/
  | idle
  /-- A transfer to another address: nothing is delivered until the next START (R65(a)). -/
  | ignoring
  /-- Addressed with the write bit (R65(b)). -/
  | writing
  /-- Addressed with the read bit (R65(c)). -/
  | reading
deriving DecidableEq, Repr

/-- The event sources: what is pending (R111) and where the two front-ends stand (R63, R65). -/
structure FrontEnd where
  /-- The reset input was asserted and RESET is not yet taken (R110, R126). -/
  resetReq : Bool
  /-- The pending I2C events, oldest first (R111). -/
  i2cQ : List I2cEvent
  /-- The pending UART events, oldest first (R111). -/
  uartQ : List UartEvent
  /-- The burst idle detector (R62, R119): no burst open, or the idle bit-times since the last stop bit of the open
  burst. -/
  burst : Option Nat
  /-- The I2C target front-end (R65). -/
  bus : BusMode
deriving DecidableEq, Repr

/-- One thing the environment does to the block: an event word of the model's input alphabet (R57), or activity on
the block's inputs at the level of bytes and bus conditions (R58, R64). -/
inductive Stimulus where
  /-- The event of this word is delivered on its unit's port; the front-ends are not involved (R57). -/
  | word (e : Word)
  /-- The reset input is asserted (R126). -/
  | resetInput
  /-- A UART character: its data bits, and whether its stop bit was high (R58, R63). -/
  | uartChar (d : Byte) (stopBit : Bool)
  /-- The UART line stays idle for this many further bit-times (R62). -/
  | uartIdle (bits : Nat)
  /-- START or repeated START and the address byte after it (R64). -/
  | i2cStart (addrByte : Byte)
  /-- The master writes a data byte; the number is the front-end's received word (R66). -/
  | i2cWrite (received : Nat)
  /-- The master clocks a byte out of the addressed target (R65(c)). -/
  | i2cRead
  /-- The master's ACK or NACK after a byte it read (R65(c)). -/
  | i2cMasterAck (ack : Bool)
  /-- STOP (R64). -/
  | i2cStop
deriving DecidableEq, Repr

/-- The whole state. `cfg`, `input` and `returned` are the model's carriers of what the spec keeps outside the block's
state: the run's parameters (notes/assumptions/1.md), the environment (notes/assumptions/2.md) and the bytes the
master has received (R8, notes/assumptions/6.md). -/
structure State where
  /-- The parameters of the run (R6). -/
  cfg : Config
  /-- The Register Store (R16). -/
  regs : RegStore
  /-- The Frame Parser (R17–R22). -/
  parser : Parser
  /-- The Responder (R29–R32). -/
  responder : Responder
  /-- The event sources (R110, R111). -/
  frontEnd : FrontEnd
  /-- What the environment will still do, a slot for each step: the stimuli that arrive before the step takes an
  event (R51). -/
  input : List (List Stimulus)
  /-- The bytes returned to the bus master so far, oldest first (R8). -/
  returned : List Byte
deriving DecidableEq, Repr

/-- The store after reset: `{identity, 0, 0, 0}`, the identity being `zext_16(I2C_ADDR)` (R34, R69). -/
def RegStore.reset (c : Config) : RegStore :=
  { id := c.i2cAddr.setWidth 16, pm1 := 0x0000, pm25 := 0x0000, pm10 := 0x0000 }

/-- The Parser after reset (R34). -/
def Parser.reset : Parser :=
  { pstate := .searching, cnt := 0, winV := false, win := 0x00, hi := 0x00, stage1 := 0x0000, stage2 := 0x0000,
    status := false }

/-- The Responder after reset (R34). -/
def Responder.reset : Responder :=
  { selValid := false, sel := 0x00, txq := [], phase := .none }

/-- The event sources after reset: every pending event is discarded (R111, R126); no burst is open (R63(c)); the I2C
front-end has released the bus (R126; DEDUCED, notes/assumptions/8.md and 12.md). -/
def FrontEnd.reset : FrontEnd :=
  { resetReq := false, i2cQ := [], uartQ := [], burst := none, bus := .idle }

/-- The block at power-up under the parameters `c` (R127): the reset state, nothing placed, no byte returned. -/
def State.powerUp (c : Config) : State :=
  { cfg := c, regs := RegStore.reset c, parser := Parser.reset, responder := Responder.reset,
    frontEnd := FrontEnd.reset, input := [], returned := [] }

/-- The machine right after reset, at the default parameters (R6, R34). -/
def State.reset : State := State.powerUp Config.default

end Sys2Proof.Machine
end

