-- ==== Sys2Proof/Machine/Flags.lean ====
section
/-! DEFINITION. The block's two flags (R28) and the output that shows one of them (R87). -/

namespace Sys2Proof.Machine

/-- `status <- ¬status` (R85). -/
def Parser.toggleStatus (p : Parser) : Parser := { p with status := !p.status }

/-- `status_out`, equal to `status` at all times (R87). -/
def State.statusOut (s : State) : Bool := s.parser.status

/-- `sel_valid <- 1`: Idle to RegisterSelected (R29, R94). -/
def Responder.markSelected (r : Responder) : Responder := { r with selValid := true }

end Sys2Proof.Machine
end

