-- ==== Sys2Proof/Machine/Operands.lean ====
section
/-! DEFINITION. The operand forms of the events: field assembly, the two bytes of a value, the register index, the
identity (30_encoding.md §4, R66, R67) and the fields of an I2C address byte (R64). -/

namespace Sys2Proof.Machine

/-- `(zext_16(h) << 8) | zext_16(l)`, which is `h ++ l` (R68). -/
def assemble (h l : Byte) : Word := (h.setWidth 16 <<< 8) ||| l.setWidth 16

/-- `v[15:8]`, the byte of a value that is sent first (R67). -/
def highByte (v : Word) : Byte := v.extractLsb' 8 8

/-- `v[7:0]`, the byte of a value that is sent second (R67). -/
def lowByte (v : Word) : Byte := v.extractLsb' 0 8

/-- The identity operand `zext_16(I2C_ADDR)` (R69). -/
def identity (c : Config) : Word := c.i2cAddr.setWidth 16

/-- The register index in the front-end's received word, whatever the word's width: its low 8 bits (R66). -/
def registerIndex (received : Nat) : Byte := BitVec.ofNat 8 received

/-- The 7-bit address in bits 7:1 of an address byte (R64). -/
def busAddress (addrByte : Byte) : BitVec 7 := addrByte.extractLsb' 1 7

/-- The R/W bit, bit 0 of an address byte: true is read (R64). -/
def busIsRead (addrByte : Byte) : Bool := addrByte.getLsbD 0

end Sys2Proof.Machine
end

