-- ==== Sys2Proof/Machine/Ops.lean ====
section
/-! DEFINITION. The named operations over the Register Store, the Parser, the Responder and the returned bytes.
There is no trap entry and no return from one to share (R109, R115): taking an event is the event's own meaning. -/

namespace Sys2Proof.Machine

/-! The updates of a state, one for each component that changes. -/

def State.withRegs (s : State) (r : RegStore) : State := { s with regs := r }
def State.withParser (s : State) (p : Parser) : State := { s with parser := p }
def State.withResponder (s : State) (r : Responder) : State := { s with responder := r }
def State.withFrontEnd (s : State) (f : FrontEnd) : State := { s with frontEnd := f }
def State.withInput (s : State) (x : List (List Stimulus)) : State := { s with input := x }

/-- `emit(b)` (R10): the byte the master receives, after those it received before (R8). -/
def State.emit (s : State) (b : Byte) : State := { s with returned := s.returned ++ [b] }

/-! The Register Store. -/

/-- `StorePublish(a, b, c)`: three slots in one step (R49). -/
def RegStore.publish (r : RegStore) (a b c : Word) : RegStore := { r with pm1 := a, pm25 := b, pm10 := c }

/-- `RegValue(i)` (R98): the slot an index names, or the sentinel. -/
def RegStore.value (r : RegStore) (i : Byte) : Word :=
  if i = 0x00 then r.id
  else if i = 0x01 then r.pm1
  else if i = 0x02 then r.pm25
  else if i = 0x03 then r.pm10
  else Config.sentinel

/-- `StoreSample(i)`: one atomic 16-bit read (R50). -/
def State.storeSample (s : State) (i : Byte) : Word := s.regs.value i

/-! The Parser (40_uart_parser.md). -/

/-- A byte while searching: fill the window (R77), find the marker (R78), or discard the oldest byte (R79). -/
def Parser.search (p : Parser) (b : Byte) : Parser :=
  if p.winV = false then { p with win := b, winV := true }
  else if p.win = Config.marker0 ∧ b = Config.marker1 then
    { p with winV := false, cnt := 0, pstate := .consumingHeader }
  else { p with win := b }

/-- A reserved byte is skipped (R80). -/
def Parser.skipReserved (p : Parser) : Parser :=
  if p.cnt = 0 then { p with cnt := 1 } else { p with cnt := 0, pstate := .consumingField1 }

/-- The high byte of a field (R81). -/
def Parser.takeHigh (p : Parser) (b : Byte) : Parser := { p with hi := b, cnt := 1 }

/-- The low byte of PM1 (R82). -/
def Parser.finishField1 (p : Parser) (b : Byte) : Parser :=
  { p with cnt := 0, stage1 := assemble p.hi b, pstate := .consumingField2 }

/-- The low byte of PM2.5 (R82). -/
def Parser.finishField2 (p : Parser) (b : Byte) : Parser :=
  { p with cnt := 0, stage2 := assemble p.hi b, pstate := .consumingField3 }

/-- The control state a frame's last byte leaves (R83): searching, with an empty window. -/
def Parser.finishFrame (p : Parser) : Parser :=
  { p.toggleStatus with cnt := 0, winV := false, pstate := .searching }

/-- The end of a burst (R86). -/
def Parser.endBurst (p : Parser) : Parser := { p with pstate := .searching, cnt := 0, winV := false }

/-- Frame completion with the last byte `b` (R83, R84, R85). -/
def State.completeFrame (s : State) (b : Byte) : State :=
  (s.withRegs (s.regs.publish s.parser.stage1 s.parser.stage2 (assemble s.parser.hi b))).withParser
    s.parser.finishFrame

/-- How many bytes of the frame in progress the parser has consumed (the table of R35). -/
def Parser.bytesConsumed (p : Parser) : Nat :=
  match p.pstate with
  | .searching => if p.winV = true ∧ p.win = Config.marker0 then 1 else 0
  | .consumingHeader => 2 + p.cnt.val
  | .consumingField1 => 4 + p.cnt.val
  | .consumingField2 => 6 + p.cnt.val
  | .consumingField3 => 8 + p.cnt.val

/-! The Responder (41_i2c_responder.md). -/

/-- What an address match and a STOP write: `txq <- []; phase <- d` (R92, R93, R104). -/
def Responder.enter (r : Responder) (d : Phase) : Responder := { r with txq := [], phase := d }

/-- The register-select: `sel <- d; sel_valid <- 1` (R94). -/
def Responder.select (r : Responder) (d : Byte) : Responder := { r.markSelected with sel := d }

/-- The value a read-request samples: the selected register, or the sentinel while Idle (R99, R100). -/
def State.requestValue (s : State) : Word :=
  if s.responder.selValid = true then s.storeSample s.responder.sel else Config.sentinel

/-- The transmit queue as I2C_RD_BYTE finds it once an empty queue has been filled by a read-request: the byte at its
head and the rest. A read-request fills it with exactly two bytes, high byte first (R100, R101, R102). -/
def State.nextByte (s : State) : Byte × List Byte :=
  match s.responder.txq with
  | [] => (highByte s.requestValue, [lowByte s.requestValue])
  | b :: rest => (b, rest)

/-- `emit(head(txq)); txq <- tail(txq)`, after the read-request if the queue was empty (R101). -/
def State.serveByte (s : State) : State :=
  (s.withResponder { s.responder with txq := s.nextByte.2 }).emit s.nextByte.1

end Sys2Proof.Machine
end

