-- ==== Sys2Proof/Machine/I2cResponder.lean ====
section
/-! DEFINITION. The meanings of the I2C events (41_i2c_responder.md). -/

namespace Sys2Proof.Machine

/-- `I2C_ADDR_W` (R92). -/
def execI2cAddrW (s : State) : Host.Outcome State Fault Refusal :=
  .next (s.withResponder (s.responder.enter .write))

/-- `I2C_ADDR_R` (R93). No register is sampled here. -/
def execI2cAddrR (s : State) : Host.Outcome State Fault Refusal :=
  .next (s.withResponder (s.responder.enter .read))

/-- `I2C_WR_BYTE(d)` (R94): the register-select; refused outside a write transfer (R114). -/
def execI2cWrByte (d : Byte) (s : State) : Host.Outcome State Fault Refusal :=
  if s.responder.phase = .write then .next (s.withResponder (s.responder.select d)) else .refused .wrongDirection

/-- `I2C_RD_BYTE` (R101): one byte to the master; refused outside a read transfer (R114). -/
def execI2cRdByte (s : State) : Host.Outcome State Fault Refusal :=
  if s.responder.phase = .read then .next s.serveByte else .refused .wrongDirection

/-- `I2C_STOP` (R104). -/
def execI2cStop (s : State) : Host.Outcome State Fault Refusal :=
  .next (s.withResponder (s.responder.enter .none))

end Sys2Proof.Machine
end

