-- ==== Sys2Proof/Machine/Reset.lean ====
section
/-! DEFINITION. The meaning of RESET (70_reset_and_hazards.md §1). -/

namespace Sys2Proof.Machine

/-- Every element of the block takes its reset value and every pending event is discarded (R126, R34). The
parameters, what the environment does next and the bytes already returned are none of the block's elements. -/
def State.resetBlock (s : State) : State :=
  { s with
    regs := { id := identity s.cfg, pm1 := 0x0000, pm25 := 0x0000, pm10 := 0x0000 }
    parser := Parser.reset
    responder := Responder.reset
    frontEnd := FrontEnd.reset }

/-- `RESET` (R126). With `I2C_ADDR` out of range the run is refused (R114). -/
def execReset (s : State) : Host.Outcome State Fault Refusal :=
  if s.cfg.legal = true then .next s.resetBlock else .refused .badConfig

end Sys2Proof.Machine
end

