-- ==== Sys2Proof/Machine/UartParser.lean ====
section
/-! DEFINITION. The meanings of the UART events (40_uart_parser.md). -/

namespace Sys2Proof.Machine

/-- `RX_BYTE(b)` (R76, with the cases R77 to R83). -/
def execRxByte (b : Byte) (s : State) : Host.Outcome State Fault Refusal :=
  match s.parser.pstate with
  | .searching => .next (s.withParser (s.parser.search b))
  | .consumingHeader => .next (s.withParser s.parser.skipReserved)
  | .consumingField1 =>
    .next (s.withParser (if s.parser.cnt = 0 then s.parser.takeHigh b else s.parser.finishField1 b))
  | .consumingField2 =>
    .next (s.withParser (if s.parser.cnt = 0 then s.parser.takeHigh b else s.parser.finishField2 b))
  | .consumingField3 =>
    .next (if s.parser.cnt = 0 then s.withParser (s.parser.takeHigh b) else s.completeFrame b)

/-- `RX_IDLE` (R86): the partial frame and the window are dropped. -/
def execRxIdle (s : State) : Host.Outcome State Fault Refusal :=
  .next (s.withParser s.parser.endBurst)

end Sys2Proof.Machine
end

