-- ==== Sys2Proof/Machine/Dispatch.lean ====
section
/-! DEFINITION. One arm for each event of R56. -/

namespace Sys2Proof.Machine

def exec (i : Instr) (s : State) : Host.Outcome State Fault Refusal :=
  match i with
  | .rxByte b => Sys2Proof.Machine.execRxByte b s
  | .rxIdle => Sys2Proof.Machine.execRxIdle s
  | .i2cAddrW => Sys2Proof.Machine.execI2cAddrW s
  | .i2cAddrR => Sys2Proof.Machine.execI2cAddrR s
  | .i2cWrByte d => Sys2Proof.Machine.execI2cWrByte d s
  | .i2cRdByte => Sys2Proof.Machine.execI2cRdByte s
  | .i2cStop => Sys2Proof.Machine.execI2cStop s
  | .reset => Sys2Proof.Machine.execReset s

end Sys2Proof.Machine
end

