-- ==== Sys2Proof/Machine/FrontEnds.lean ====
section
/-! DEFINITION. The event sources: how event words and wire activity become pending events (R57, R62–R66, R110, R111),
which pending event a step takes (R112), and the refusal of a run with an illegal address (R114). -/

namespace Sys2Proof.Machine

/-- The event a pending UART entry stands for (R56). -/
def UartEvent.instr : UartEvent → Instr
  | .rxByte b => .rxByte b
  | .rxIdle => .rxIdle

/-- The event a pending I2C entry stands for (R56). -/
def I2cEvent.instr : I2cEvent → Instr
  | .addrW => .i2cAddrW
  | .addrR => .i2cAddrR
  | .wrByte d => .i2cWrByte d
  | .rdByte => .i2cRdByte
  | .stop => .i2cStop

/-- A UART event becomes pending behind those produced before it (R111). -/
def FrontEnd.pendUart (f : FrontEnd) (e : UartEvent) : FrontEnd := { f with uartQ := f.uartQ ++ [e] }

/-- An I2C event becomes pending behind those produced before it (R111). -/
def FrontEnd.pendI2c (f : FrontEnd) (e : I2cEvent) : FrontEnd := { f with i2cQ := f.i2cQ ++ [e] }

/-- RESET is asserted (R126). -/
def FrontEnd.pendReset (f : FrontEnd) : FrontEnd := { f with resetReq := true }

/-- An event becomes pending at the unit it is wired to (R110). -/
def FrontEnd.pend (f : FrontEnd) : Instr → FrontEnd
  | .rxByte b => f.pendUart (.rxByte b)
  | .rxIdle => f.pendUart .rxIdle
  | .i2cAddrW => f.pendI2c .addrW
  | .i2cAddrR => f.pendI2c .addrR
  | .i2cWrByte d => f.pendI2c (.wrByte d)
  | .i2cRdByte => f.pendI2c .rdByte
  | .i2cStop => f.pendI2c .stop
  | .reset => f.pendReset

/-- The UART receiver gets a character: it delivers the data bits whatever the stop bit was, and a burst is open
(R63(a), R63(b)). With no idle time before it the character continues an open burst, also where `RX_IDLE_BITS` is 0,
which the spec leaves open (DESIGN CHOICE, unsafe at 0: notes/assumptions/22.md). -/
def FrontEnd.uartChar (f : FrontEnd) (d : Byte) : FrontEnd := { f.pendUart (.rxByte d) with burst := some 0 }

/-- The UART line stays idle for `bits` further bit-times: once the gap reaches `RX_IDLE_BITS` the open burst ends and
RX_IDLE is delivered, once (R62, R63(c)). Where `RX_IDLE_BITS` is 0 it ends at the first idle time placed, also one of 0
bit-times (DESIGN CHOICE, unsafe at 0: notes/assumptions/22.md). -/
def FrontEnd.uartIdle (c : Config) (f : FrontEnd) (bits : Nat) : FrontEnd :=
  match f.burst with
  | none => f
  | some gap =>
    if c.rxIdleBits ≤ gap + bits then { f.pendUart .rxIdle with burst := none }
    else { f with burst := some (gap + bits) }

/-- START or repeated START with an address byte: the front-end answers its own address and no other (R65(a)). -/
def FrontEnd.i2cStart (c : Config) (f : FrontEnd) (addrByte : Byte) : FrontEnd :=
  if busAddress addrByte = c.i2cAddr then
    if busIsRead addrByte = true then { f.pendI2c .addrR with bus := .reading }
    else { f.pendI2c .addrW with bus := .writing }
  else { f with bus := .ignoring }

/-- A data byte from the master: a register-select in a write transfer (R65(b), R66), nothing otherwise (R65(e)). -/
def FrontEnd.i2cWrite (f : FrontEnd) (received : Nat) : FrontEnd :=
  match f.bus with
  | .writing => f.pendI2c (.wrByte (registerIndex received))
  | .idle => f
  | .ignoring => f
  | .reading => f

/-- The master clocks a byte out: I2C_RD_BYTE in a read transfer (R65(c)), nothing otherwise (R65(e)). -/
def FrontEnd.i2cRead (f : FrontEnd) : FrontEnd :=
  match f.bus with
  | .reading => f.pendI2c .rdByte
  | .idle => f
  | .ignoring => f
  | .writing => f

/-- STOP delivers I2C_STOP (R65(d)), also with no transfer addressed to the block (D25), but not at the end of a
transfer to another target (R65(a), R108; DESIGN CHOICE, notes/assumptions/9.md). -/
def FrontEnd.i2cStop (f : FrontEnd) : FrontEnd :=
  match f.bus with
  | .ignoring => { f with bus := .idle }
  | .idle => { f.pendI2c .stop with bus := .idle }
  | .writing => { f.pendI2c .stop with bus := .idle }
  | .reading => { f.pendI2c .stop with bus := .idle }

/-- One stimulus arrives. A reserved word is refused (R71, R114). -/
def FrontEnd.deliver (c : Config) (f : FrontEnd) : Stimulus → Except Refusal FrontEnd
  | .word e =>
    match decode e with
    | .ok i => .ok (f.pend i)
    | .error (.reservedEvent w) => .error (.reservedEvent w)
  | .resetInput => .ok f.pendReset
  | .uartChar d _ => .ok (f.uartChar d)
  | .uartIdle bits => .ok (f.uartIdle c bits)
  | .i2cStart a => .ok (f.i2cStart c a)
  | .i2cWrite received => .ok (f.i2cWrite received)
  | .i2cRead => .ok f.i2cRead
  | .i2cMasterAck _ => .ok f
  | .i2cStop => .ok f.i2cStop

/-- The stimuli of one slot arrive, in order. -/
def FrontEnd.deliverAll (c : Config) (f : FrontEnd) : List Stimulus → Except Refusal FrontEnd
  | [] => .ok f
  | x :: rest =>
    match f.deliver c x with
    | .ok f' => f'.deliverAll c rest
    | .error r => .error r

/-- What a step finds to do. -/
inductive Fetched where
  /-- No event is pending: the block holds its state (R123). -/
  | hold (s : State)
  /-- This event is taken; taking it has cleared it at its front-end (R105). -/
  | event (i : Instr) (s : State)
  /-- The run is refused (R114). -/
  | refuse (r : Refusal)
deriving DecidableEq, Repr

/-- The next slot of the input arrives. -/
def State.arrive (s : State) : Except Refusal State :=
  match s.input with
  | [] => .ok s
  | slot :: rest =>
    match s.frontEnd.deliverAll s.cfg slot with
    | .ok f => .ok ((s.withFrontEnd f).withInput rest)
    | .error r => .error r

/-- The pending event that is taken: RESET before every other, the I2C source before the UART source, and in each
source the oldest first (R111, R112). -/
def State.take (s : State) : Fetched :=
  if s.frontEnd.resetReq = true then
    .event .reset (s.withFrontEnd { s.frontEnd with resetReq := false })
  else
    match s.frontEnd.i2cQ with
    | e :: rest => .event e.instr (s.withFrontEnd { s.frontEnd with i2cQ := rest })
    | [] =>
      match s.frontEnd.uartQ with
      | e :: rest => .event e.instr (s.withFrontEnd { s.frontEnd with uartQ := rest })
      | [] => .hold s

/-- The run is refused if `I2C_ADDR` is out of range (R114, R129); else the next slot arrives and an event is taken. -/
def State.fetch (s : State) : Fetched :=
  if s.cfg.legal = true then
    match s.arrive with
    | .ok s' => s'.take
    | .error r => .refuse r
  else .refuse .badConfig

/-- `s` with the event word `e` as the next thing its environment does, and nothing else pending (R57). -/
def State.placeWord (s : State) (e : Word) : State :=
  (s.withFrontEnd { s.frontEnd with resetReq := false, i2cQ := [], uartQ := [] }).withInput ([.word e] :: s.input)

end Sys2Proof.Machine
end

