-- ==== Sys2Proof/Machine/Step.lean ====
section
/-! DEFINITION. One step: the stimuli of the next slot arrive and one event is taken, as one atomic step (R52). -/

namespace Sys2Proof.Machine

/-- One step of the block and its front-ends (R51, R52, R123). -/
def step (s : State) : Host.Outcome State Fault Refusal :=
  match s.fetch with
  | .hold s' => .next s'
  | .event i s' => exec i s'
  | .refuse r => .refused r

/-- `s` with the event word in the low `nbits` bits of `w` as the next event (notes/assumptions/2.md). -/
def State.withFetchWord (s : State) (nbits w : Nat) : State :=
  s.placeWord (BitVec.ofNat 16 (w % 2 ^ nbits))

end Sys2Proof.Machine
end

