-- ==== Sys2Proof/Safety.lean ====
section
/-! DEFINITION. The terms the statements use: runs of events, the block's invariants, what a run publishes, and when
the I2C front-end and the Responder agree. -/

namespace Sys2Proof.Machine

/-! Runs. -/

/-- The events of `is` applied in order; a fault or a refusal ends the run (R8, R51). -/
def runEvents : List Instr → State → Host.Outcome State Fault Refusal
  | [], s => .next s
  | i :: is, s =>
    match exec i s with
    | .next t => runEvents is t
    | .fault f => .fault f
    | .refused r => .refused r

/-- No event is pending at any source (R111). -/
abbrev State.Quiet (s : State) : Prop :=
  s.frontEnd.resetReq = false ∧ s.frontEnd.i2cQ = [] ∧ s.frontEnd.uartQ = []

/-- The events of the UART source (R110). -/
def fromUart : Instr → Bool
  | .rxByte _ => true
  | .rxIdle => true
  | .i2cAddrW => false
  | .i2cAddrR => false
  | .i2cWrByte _ => false
  | .i2cRdByte => false
  | .i2cStop => false
  | .reset => false

/-- The events of the I2C source (R110). -/
def fromI2c : Instr → Bool
  | .rxByte _ => false
  | .rxIdle => false
  | .i2cAddrW => true
  | .i2cAddrR => true
  | .i2cWrByte _ => true
  | .i2cRdByte => true
  | .i2cStop => true
  | .reset => false

/-! Invariants. -/

/-- `cnt` is 0 while searching (R18), and the window is empty outside searching (R19). -/
abbrev Parser.Inv (p : Parser) : Prop :=
  (p.pstate = .searching → p.cnt = 0) ∧ (p.pstate ≠ .searching → p.winV = false)

/-- At most two bytes are queued (R31, R102), and only in a read transfer. -/
abbrev Responder.Inv (r : Responder) : Prop :=
  r.txq.length ≤ Config.txqDepth ∧ (r.txq ≠ [] → r.phase = .read)

/-- The identity register is hardwired (R23, R26), and both units are in a state their rules can leave. -/
abbrev State.Inv (s : State) : Prop :=
  s.regs.id = identity s.cfg ∧ s.parser.Inv ∧ s.responder.Inv

/-! Frames and publication. -/

/-- The marker pair stands somewhere in a run of bytes (R60). -/
def hasMarker : List Byte → Bool
  | [] => false
  | [_] => false
  | a :: b :: rest => (a == Config.marker0 && b == Config.marker1) || hasMarker (b :: rest)

/-- The bytes the lookahead window still holds (R19). -/
def Parser.window (p : Parser) : List Byte := if p.winV = true then [p.win] else []

/-- The three values an event publishes, if it completes a frame (R83, R84). -/
def publication (i : Instr) (s : State) : Option (Word × Word × Word) :=
  match i with
  | .rxByte b =>
    if s.parser.pstate = .consumingField3 ∧ s.parser.cnt = 1 then
      some (s.parser.stage1, s.parser.stage2, assemble s.parser.hi b)
    else none
  | _ => none

/-- Everything a run of events publishes, in order (R49, R51). -/
def publications : List Instr → State → List (Word × Word × Word)
  | [], _ => []
  | i :: is, s =>
    match exec i s with
    | .next t => (publication i s).toList ++ publications is t
    | .fault _ => []
    | .refused _ => []

/-- The three measurements (R16). -/
def RegStore.measurements (r : RegStore) : Word × Word × Word := (r.pm1, r.pm25, r.pm10)

/-- Two states that differ at most in the scratch registers (R37). -/
abbrev State.EqualButScratch (s t : State) : Prop :=
  t = { s with parser := { s.parser with
          hi := t.parser.hi, stage1 := t.parser.stage1, stage2 := t.parser.stage2 } }

/-! The I2C front-end's contract (R65, R114). -/

/-- The phase an I2C event leaves, or nothing where the event is refused (R92, R93, R94, R101, R104). -/
def I2cEvent.phaseAfter (p : Phase) : I2cEvent → Option Phase
  | .addrW => some .write
  | .addrR => some .read
  | .wrByte _ => if p = .write then some .write else none
  | .rdByte => if p = .read then some .read else none
  | .stop => some .none

/-- The phase a queue of I2C events leaves. -/
def phaseAfterAll (p : Phase) : List I2cEvent → Option Phase
  | [] => some p
  | e :: es =>
    match e.phaseAfter p with
    | some p' => phaseAfterAll p' es
    | none => none

/-- The front-end delivers data bytes only for the direction it was addressed in (R65). -/
def BusMode.fits : BusMode → Phase → Bool
  | .idle, _ => true
  | .ignoring, _ => true
  | .writing, p => p == .write
  | .reading, p => p == .read

/-- No pending I2C event will be refused, and what the front-end delivers next will fit what is pending. -/
def State.busAgrees (s : State) : Bool :=
  match phaseAfterAll s.responder.phase s.frontEnd.i2cQ with
  | some p => s.frontEnd.bus.fits p
  | none => false

/-- An event word, delivered past the front-ends. -/
def Stimulus.isWord : Stimulus → Bool
  | .word _ => true
  | .resetInput => false
  | .uartChar _ _ => false
  | .uartIdle _ => false
  | .i2cStart _ => false
  | .i2cWrite _ => false
  | .i2cRead => false
  | .i2cMasterAck _ => false
  | .i2cStop => false

/-- The environment acts on the block's inputs only: no event word stands in what it will do. -/
abbrev State.WireOnly (s : State) : Prop := ∀ slot ∈ s.input, ∀ x ∈ slot, x.isWord = false

/-- A run the spec describes (R114): the address is legal, the environment acts on the inputs only, and the front-end
and the Responder agree. -/
abbrev State.WithinContract (s : State) : Prop :=
  s.cfg.legal = true ∧ s.WireOnly ∧ s.busAgrees = true

end Sys2Proof.Machine
end

