-- ==== Sys2Proof/Certificates/Slice0/Obligations.lean ====
section
/-! DEFINITION. The statements for the provers. A statement of the form `exec i s = .next { s with … }` says the
instruction's result, that it completes, and its frame: every field not written in the braces keeps its value. -/

open Sys2Proof Sys2Proof.Machine

/-! The Parser (40_uart_parser.md). -/

/-- R77. -/
def Obligations.RxByteFillsEmptyWindow : Prop :=
  ∀ (s : State) (b : Byte), s.parser.pstate = .searching → s.parser.winV = false →
    exec (.rxByte b) s = .next { s with parser := { s.parser with win := b, winV := true } }

/-- R78. -/
def Obligations.RxByteFindsMarker : Prop :=
  ∀ s : State, s.parser.pstate = .searching → s.parser.winV = true → s.parser.win = 0x42 →
    exec (.rxByte 0x4D) s =
      .next { s with parser := { s.parser with winV := false, cnt := 0, pstate := .consumingHeader } }

/-- R79. -/
def Obligations.RxByteDiscardsOldestByte : Prop :=
  ∀ (s : State) (b : Byte), s.parser.pstate = .searching → s.parser.winV = true →
    (s.parser.win, b) ≠ (0x42, 0x4D) →
    exec (.rxByte b) s = .next { s with parser := { s.parser with win := b } }

/-- R80, for every value of the byte (R61). -/
def Obligations.RxByteSkipsReservedByte : Prop :=
  ∀ (s : State) (b : Byte), s.parser.pstate = .consumingHeader →
    (s.parser.cnt = 0 → exec (.rxByte b) s = .next { s with parser := { s.parser with cnt := 1 } }) ∧
    (s.parser.cnt = 1 → exec (.rxByte b) s =
      .next { s with parser := { s.parser with cnt := 0, pstate := .consumingField1 } })

/-- R81, in each of the three field states. -/
def Obligations.RxByteTakesHighByte : Prop :=
  ∀ (s : State) (b : Byte),
    s.parser.pstate = .consumingField1 ∨ s.parser.pstate = .consumingField2 ∨
      s.parser.pstate = .consumingField3 →
    s.parser.cnt = 0 →
    exec (.rxByte b) s = .next { s with parser := { s.parser with hi := b, cnt := 1 } }

/-- R82, with the value written as `h ++ l` (R68). -/
def Obligations.RxByteStagesField : Prop :=
  ∀ (s : State) (b : Byte), s.parser.cnt = 1 →
    (s.parser.pstate = .consumingField1 → exec (.rxByte b) s =
      .next { s with parser := { s.parser with
        cnt := 0, stage1 := s.parser.hi ++ b, pstate := .consumingField2 } }) ∧
    (s.parser.pstate = .consumingField2 → exec (.rxByte b) s =
      .next { s with parser := { s.parser with
        cnt := 0, stage2 := s.parser.hi ++ b, pstate := .consumingField3 } })

/-- R83: the last byte publishes the three values together (R49, R84) and inverts the status output (R85). -/
def Obligations.RxByteCompletesFrame : Prop :=
  ∀ (s : State) (b : Byte), s.parser.pstate = .consumingField3 → s.parser.cnt = 1 →
    exec (.rxByte b) s =
      .next { s with
        regs := { s.regs with pm1 := s.parser.stage1, pm25 := s.parser.stage2, pm10 := s.parser.hi ++ b }
        parser := { s.parser with
          cnt := 0, winV := false, pstate := .searching, status := !s.parser.status } }

/-- R86: the partial frame and the window are dropped, and a second RX_IDLE changes nothing more. -/
def Obligations.RxIdleDropsPartialFrame : Prop :=
  ∀ s : State,
    exec .rxIdle s =
      .next { s with parser := { s.parser with pstate := .searching, cnt := 0, winV := false } } ∧
    ∀ t, exec .rxIdle s = .next t → exec .rxIdle t = .next t

/-- R75, R76: every byte is consumed in one step in every state, RX_IDLE too, and nothing of the Responder's is
written. -/
def Obligations.ParserNeverStalls : Prop :=
  ∀ (s : State) (i : Instr), fromUart i = true →
    ∃ t, exec i s = .next t ∧ t.responder = s.responder ∧ t.returned = s.returned ∧ t.regs.id = s.regs.id

/-- R35 (its table, with R90): outside Searching every byte moves the parser one frame offset on, and the byte at the
last offset leaves it at offset 0 in Searching. -/
def Obligations.RxByteAdvancesFrameOffset : Prop :=
  ∀ (s t : State) (b : Byte), s.parser.pstate ≠ .searching → exec (.rxByte b) s = .next t →
    (s.parser.bytesConsumed + 1 < Config.frameLen →
      t.parser.bytesConsumed = s.parser.bytesConsumed + 1 ∧ t.parser.pstate ≠ .searching ∧ t.regs = s.regs) ∧
    (s.parser.bytesConsumed + 1 = Config.frameLen →
      t.parser.bytesConsumed = 0 ∧ t.parser.pstate = .searching) ∧
    s.parser.bytesConsumed + 1 ≤ Config.frameLen

/-- R88, first sentence: at most eight bytes bring the parser to Searching, from any state. -/
def Obligations.EightBytesReachSearching : Prop :=
  ∀ (s : State) (bs : List Byte), bs.length = 8 →
    ∃ k, k ≤ 8 ∧ ∃ t, runEvents ((bs.take k).map .rxByte) s = .next t ∧ t.parser.pstate = .searching

/-- R84 with the resynchronisation of R88: whatever garbage without a marker comes before it in the burst, a frame is
recognised and published whole. The garbage condition is R60's marker pair not standing in what the parser has in its
window, the garbage and the frame's first marker byte. -/
def Obligations.FrameAfterGarbageIsPublished : Prop :=
  ∀ (s : State) (g : List Byte) (r0 r1 h1 l1 h2 l2 h3 l3 : Byte), s.parser.pstate = .searching →
    hasMarker (s.parser.window ++ g ++ [0x42]) = false →
    ∃ t, runEvents ((g ++ [0x42, 0x4D, r0, r1, h1, l1, h2, l2, h3, l3]).map .rxByte) s = .next t ∧
      t.regs = { id := s.regs.id, pm1 := h1 ++ l1, pm25 := h2 ++ l2, pm10 := h3 ++ l3 } ∧
      t.parser.status = !s.parser.status ∧ t.parser.pstate = .searching ∧ t.parser.winV = false ∧
      t.responder = s.responder ∧ t.frontEnd = s.frontEnd ∧ t.returned = s.returned

/-- R37: from a parser that is searching or in the header, what the scratch registers hold never shows: two states
that differ only there answer every run of events alike, but for the scratch registers themselves. -/
def Obligations.ScratchRegistersAreUnobservable : Prop :=
  ∀ (s t : State) (is : List Instr), s.EqualButScratch t →
    s.parser.pstate = .searching ∨ s.parser.pstate = .consumingHeader →
    (∀ s', runEvents is s = .next s' → ∃ t', runEvents is t = .next t' ∧ s'.EqualButScratch t') ∧
    (∀ r, runEvents is s = .refused r → runEvents is t = .refused r)

/-- R28, R85: `status` is inverted by the event that completes a frame, cleared by RESET, and written by nothing
else. -/
def Obligations.StatusChangesOnlyAtCompletion : Prop :=
  ∀ (i : Instr) (s t : State), exec i s = .next t →
    t.statusOut = if i = .reset then false
      else if (publication i s).isSome = true then !s.statusOut else s.statusOut

/-- R87: over events without RESET, the status level has been inverted once for each completed frame; from level 0 it
is the number of frames modulo 2. -/
def Obligations.StatusLevelIsFrameParity : Prop :=
  ∀ (is : List Instr) (s t : State), Instr.reset ∉ is → s.statusOut = false → runEvents is s = .next t →
    t.statusOut = decide ((publications is s).length % 2 = 1)

/-! The Responder (41_i2c_responder.md). -/

/-- R92. -/
def Obligations.AddressForWriteEmptiesQueue : Prop :=
  ∀ s : State, exec .i2cAddrW s = .next { s with responder := { s.responder with txq := [], phase := .write } }

/-- R93. -/
def Obligations.AddressForReadEmptiesQueue : Prop :=
  ∀ s : State, exec .i2cAddrR s = .next { s with responder := { s.responder with txq := [], phase := .read } }

/-- R104. -/
def Obligations.StopEndsTransfer : Prop :=
  ∀ s : State, exec .i2cStop s = .next { s with responder := { s.responder with txq := [], phase := .none } }

/-- R94: the register-select in a write transfer, for every index, and its refusal outside one. -/
def Obligations.RegisterSelectStoresIndex : Prop :=
  ∀ (s : State) (d : Byte),
    (s.responder.phase = .write → exec (.i2cWrByte d) s =
      .next { s with responder := { s.responder with sel := d, selValid := true } }) ∧
    (s.responder.phase ≠ .write → exec (.i2cWrByte d) s = .refused .wrongDirection)

/-- R101 with the read-request R100: an empty queue is filled from one sample, high byte first; a filled one gives its
head; outside a read transfer the event is refused. -/
def Obligations.ReadByteServesQueueOrSample : Prop :=
  ∀ s : State,
    (s.responder.phase = .read → s.responder.txq = [] →
      ∀ v : Word, v = (if s.responder.selValid = true then s.regs.value s.responder.sel else 0x0000) →
        exec .i2cRdByte s = .next { s with
          responder := { s.responder with txq := [v.extractLsb 7 0] }
          returned := s.returned ++ [v.extractLsb 15 8] }) ∧
    (∀ b rest, s.responder.phase = .read → s.responder.txq = b :: rest →
      exec .i2cRdByte s = .next { s with
        responder := { s.responder with txq := rest }, returned := s.returned ++ [b] }) ∧
    (s.responder.phase ≠ .read → exec .i2cRdByte s = .refused .wrongDirection)

/-- R98: the register map, all 256 indices. -/
def Obligations.RegisterMapDispatch : Prop :=
  ∀ r : RegStore, r.value 0x00 = r.id ∧ r.value 0x01 = r.pm1 ∧ r.value 0x02 = r.pm25 ∧ r.value 0x03 = r.pm10 ∧
    ∀ i : Byte, Config.nreg ≤ i.toNat → r.value i = 0x0000

/-- R99: a read before any register-select returns two zero bytes. -/
def Obligations.ReadBeforeSelectReturnsSentinel : Prop :=
  ∀ s : State, s.responder.selValid = false → s.responder.phase = .read → s.responder.txq = [] →
    runEvents [.i2cRdByte, .i2cRdByte] s = .next { s with returned := s.returned ++ [0x00, 0x00] }

/-- R107: the two bytes of one read-request come from one sample, whatever the UART does between them. -/
def Obligations.ReadPairComesFromOneSample : Prop :=
  ∀ (s : State) (is : List Instr), s.responder.phase = .read → s.responder.txq = [] →
    (∀ i ∈ is, fromUart i = true) →
    ∃ t, runEvents (.i2cRdByte :: (is ++ [.i2cRdByte])) s = .next t ∧ t.responder = s.responder ∧
      t.returned = s.returned ++ [s.requestValue.extractLsb 15 8, s.requestValue.extractLsb 7 0]

/-- R103, R106: a read of `2k` bytes with nothing between them returns the selected register `k` times, and the
selection does not advance. -/
def Obligations.StreamingRepeatsRegister : Prop :=
  ∀ (k : Nat) (s : State), s.responder.phase = .read → s.responder.txq = [] →
    runEvents (List.replicate (2 * k) .i2cRdByte) s = .next { s with
      returned := s.returned ++
        (List.replicate k [s.requestValue.extractLsb 15 8, s.requestValue.extractLsb 7 0]).flatten }

/-- R96: the selection persists until the next register-select or RESET. -/
def Obligations.SelectionPersists : Prop :=
  ∀ (is : List Instr) (s t : State), (∀ i ∈ is, i ≠ .reset ∧ ∀ d, i ≠ .i2cWrByte d) →
    runEvents is s = .next t →
    t.responder.sel = s.responder.sel ∧ t.responder.selValid = s.responder.selValid

/-- A combined select and read (R74 `readreg`) returns the two bytes of the register, from every state and for every
index, and leaves the block as it was but for the selection and the transfer. -/
def Obligations.SelectThenReadReturnsRegister : Prop :=
  ∀ (s : State) (d : Byte),
    runEvents [.i2cAddrW, .i2cWrByte d, .i2cAddrR, .i2cRdByte, .i2cRdByte, .i2cStop] s = .next { s with
      responder := { selValid := true, sel := d, txq := [], phase := .none }
      returned := s.returned ++ [(s.regs.value d).extractLsb 15 8, (s.regs.value d).extractLsb 7 0] }

/-- R102: a read-request is two bytes. When I2C_RD_BYTE finds the queue empty, what it returns and what it leaves
queued are two bytes in all; when it does not, it takes one; and only the events R102 names change the queue. -/
def Obligations.ReadRequestIsTwoBytes : Prop :=
  ∀ (i : Instr) (s t : State), exec i s = .next t →
    (i = .i2cRdByte → ∃ b, t.returned = s.returned ++ [b] ∧
      (s.responder.txq = [] → ([b] ++ t.responder.txq).length = 2) ∧
      (s.responder.txq ≠ [] → s.responder.txq = b :: t.responder.txq)) ∧
    (t.responder.txq ≠ s.responder.txq →
      i = .i2cRdByte ∨ i = .i2cAddrW ∨ i = .i2cAddrR ∨ i = .i2cStop ∨ i = .reset)

/-! The Register Store (10_state.md, 20_memory.md). -/

/-- R24, R47: no event but RESET and the one that completes a frame writes a slot, and that one writes the three
measurements. -/
def Obligations.StoreWrittenOnlyByPublish : Prop :=
  ∀ (i : Instr) (s t : State), exec i s = .next t → i ≠ .reset →
    t.regs.id = s.regs.id ∧ t.regs.measurements = (publication i s).getD s.regs.measurements

/-- R25, R50: over any run of events without RESET, the measurements are the triple published last, or those the run
began with. -/
def Obligations.MeasurementsAreLastPublication : Prop :=
  ∀ (is : List Instr) (s t : State), Instr.reset ∉ is → runEvents is s = .next t →
    t.regs.measurements = (publications is s).getLast?.getD s.regs.measurements

/-- R36, R48: each element has one writer. A UART event leaves the Responder and the returned bytes as they were, an
I2C event leaves the Parser and the store as they were, and neither touches `REG[0]`, what is pending or the
parameters. That the parameters, `input` and `returned` are fields of the state, which RESET keeps, is the model's
choice (notes/assumptions/1.md, 2.md and 6.md). -/
def Obligations.EachElementHasOneWriter : Prop :=
  ∀ (i : Instr) (s t : State), exec i s = .next t →
    (fromUart i = true → t = { s with regs := { t.regs with id := s.regs.id }, parser := t.parser }) ∧
    (fromI2c i = true → t = { s with responder := t.responder, returned := t.returned }) ∧
    (i = .reset → t = { t with cfg := s.cfg, input := s.input, returned := s.returned })

/-! Reset (70_reset_and_hazards.md, R34). -/

/-- R126: every element of R15 takes the reset value of R34 and every pending event is discarded; after a
RESET in a read transfer the master clocks no further byte out of the block in that transfer; an illegal address is
refused. -/
def Obligations.ResetSetsEveryElement : Prop :=
  ∀ s : State,
    (s.cfg.legal = true → ∃ t, exec .reset s = .next t ∧
      t.regs = { id := s.cfg.i2cAddr.zeroExtend 16, pm1 := 0x0000, pm25 := 0x0000, pm10 := 0x0000 } ∧
      t.parser = { pstate := .searching, cnt := 0, winV := false, win := 0x00, hi := 0x00, stage1 := 0x0000,
                   stage2 := 0x0000, status := false } ∧
      t.responder = { selValid := false, sel := 0x00, txq := [], phase := .none } ∧
      t.frontEnd.resetReq = false ∧ t.frontEnd.i2cQ = [] ∧ t.frontEnd.uartQ = [] ∧
      (s.frontEnd.bus = .reading → ∀ rest : List (List Stimulus),
        step { t with input := [.i2cRead] :: rest } = .next { t with input := rest })) ∧
    (s.cfg.legal = false → exec .reset s = .refused .badConfig)

/-- R127: power-up is a RESET, and RESET keeps the parameters, what the environment will do and the bytes returned.
The reset values of `burst` and `bus` are the model's (notes/assumptions/8.md and 12.md), and that `input` and
`returned` outlive RESET too (notes/assumptions/2.md and 6.md). -/
def Obligations.PowerUpIsReset : Prop :=
  ∀ s : State, s.cfg.legal = true →
    exec .reset s = .next { State.powerUp s.cfg with input := s.input, returned := s.returned }

/-- R34: the values the spec gives, under every configuration and at the default address. -/
def Obligations.ResetStateValues : Prop :=
  (∀ c : Config,
    (State.powerUp c).regs =
      { id := c.i2cAddr.zeroExtend 16, pm1 := 0x0000, pm25 := 0x0000, pm10 := 0x0000 } ∧
    (State.powerUp c).parser =
      { pstate := .searching, cnt := 0, winV := false, win := 0x00, hi := 0x00, stage1 := 0x0000,
        stage2 := 0x0000, status := false } ∧
    (State.powerUp c).responder = { selValid := false, sel := 0x00, txq := [], phase := .none }) ∧
  State.reset = State.powerUp { i2cAddr := 0x2D, rxIdleBits := 32 } ∧ State.reset.regs.id = 0x002D

/-- R129 with R114: with `I2C_ADDR` outside `0x08` to `0x77` every step of the run is refused, and with an address in
the range none is refused as BadConfig. That a step that finds no event is refused too is notes/assumptions/7.md. -/
def Obligations.IllegalAddressIsRefused : Prop :=
  ∀ s : State,
    (s.cfg.i2cAddr.toNat < 0x08 ∨ 0x77 < s.cfg.i2cAddr.toNat → step s = .refused .badConfig) ∧
    (0x08 ≤ s.cfg.i2cAddr.toNat → s.cfg.i2cAddr.toNat ≤ 0x77 → step s ≠ .refused .badConfig)

/-! Encoding (30_encoding.md). -/

/-- Decoding the word of an event gives the event back, for every event and every operand. -/
def Obligations.DecodeEncodeRoundTrip : Prop :=
  ∀ i : Instr, decode (encode i) = .ok i

/-- A word that decodes is the word of the event it decodes to: no two words are one event. -/
def Obligations.EncodeDecodeRoundTrip : Prop :=
  ∀ (e : Word) (i : Instr), decode e = .ok i → encode i = e

/-- R71: the reserved words are exactly those of kind `0x0` or `0x9` to `0xF`, those with bits 11:8 non-zero, and
those of a kind without an operand whose bits 7:0 are non-zero; and a step at which one arrives is refused. That
it is refused at its arrival, before any event that is pending, is the model's choice (notes/assumptions/19.md). -/
def Obligations.ReservedWordsAreRefused : Prop :=
  ∀ e : Word,
    (decode e = .error (.reservedEvent e) ↔
      (e.extractLsb 15 12 = (0x0 : BitVec 4) ∨ 0x9 ≤ (e.extractLsb 15 12 : BitVec 4).toNat) ∨
      e.extractLsb 11 8 ≠ (0 : BitVec 4) ∨
      (e.extractLsb 15 12 ≠ (0x1 : BitVec 4) ∧ e.extractLsb 15 12 ≠ (0x5 : BitVec 4) ∧
        e.extractLsb 7 0 ≠ (0 : Byte))) ∧
    (decode e = .error (.reservedEvent e) → ∀ (s : State) (rest : List (List Stimulus)), s.cfg.legal = true →
      s.input = [.word e] :: rest → step s = .refused (.reservedEvent e))

/-- R70: a word is the event of a row when `e & mask = match`, with `e[7:0]` as its operand, row by row. -/
def Obligations.EventMapRows : Prop :=
  ∀ e : Word,
    (∀ b, decode e = .ok (.rxByte b) ↔ e &&& 0xFF00 = 0x1000 ∧ b = e.extractLsb 7 0) ∧
    (decode e = .ok .rxIdle ↔ e &&& 0xFFFF = 0x2000) ∧
    (decode e = .ok .i2cAddrW ↔ e &&& 0xFFFF = 0x3000) ∧
    (decode e = .ok .i2cAddrR ↔ e &&& 0xFFFF = 0x4000) ∧
    (∀ d, decode e = .ok (.i2cWrByte d) ↔ e &&& 0xFF00 = 0x5000 ∧ d = e.extractLsb 7 0) ∧
    (decode e = .ok .i2cRdByte ↔ e &&& 0xFFFF = 0x6000) ∧
    (decode e = .ok .i2cStop ↔ e &&& 0xFFFF = 0x7000) ∧
    (decode e = .ok .reset ↔ e &&& 0xFFFF = 0x8000)

/-- Words written out from the event map of R70, one for each row, and three reserved ones. -/
def Obligations.EventWordsDecodeAsTheMapSays : Prop :=
  decode 0b0001000001000010 = .ok (.rxByte 0x42) ∧ decode 0b0010000000000000 = .ok .rxIdle ∧
  decode 0b0011000000000000 = .ok .i2cAddrW ∧ decode 0b0100000000000000 = .ok .i2cAddrR ∧
  decode 0b0101000011111111 = .ok (.i2cWrByte 0xFF) ∧ decode 0b0110000000000000 = .ok .i2cRdByte ∧
  decode 0b0111000000000000 = .ok .i2cStop ∧ decode 0b1000000000000000 = .ok .reset ∧
  decode 0x1F42 = .error (.reservedEvent 0x1F42) ∧ decode 0x2001 = .error (.reservedEvent 0x2001) ∧
  decode 0x9000 = .error (.reservedEvent 0x9000)

/-! Steps and event sources (60_exceptions.md). -/

/-- A step runs the event it finds: with nothing pending and one event word in the next slot, a step is `exec` of the
event the word decodes to, and all the step adds is that the slot is used up. The slots
are the model's (notes/assumptions/2.md and 3.md). -/
def Obligations.StepRunsTheDecodedEvent : Prop :=
  ∀ (s : State) (e : Word) (i : Instr) (rest : List (List Stimulus)), s.cfg.legal = true → s.Quiet →
    s.input = [.word e] :: rest → decode e = .ok i → step s = exec i { s with input := rest }

/-- R71, R114: a reserved word among what arrives is refused, whatever is pending and whatever arrives with it.
That it is refused at its arrival, before any event is taken, is the model's choice (notes/assumptions/19.md). -/
def Obligations.StepRefusesReservedWord : Prop :=
  ∀ (s : State) (e : Word) (before after : List Stimulus) (rest : List (List Stimulus)), s.cfg.legal = true →
    (∀ e', Stimulus.word e' ∈ before → wordWellFormed e' = true) →
    s.input = (before ++ .word e :: after) :: rest →
    wordWellFormed e = false → step s = .refused (.reservedEvent e)

/-- R111, R112: of what is pending a step takes RESET first, then the oldest I2C event, then the oldest UART event;
taking an event clears it (R105); with nothing pending the block holds its state (R123).
That the order of R112 holds for all that is pending at a step is notes/assumptions/4.md, and what a step without an
event answers is 21.md there. -/
def Obligations.StepTakesPendingByPriority : Prop :=
  ∀ s : State, s.cfg.legal = true → s.input = [] →
    (s.frontEnd.resetReq = true →
      step s = exec .reset { s with frontEnd := { s.frontEnd with resetReq := false } }) ∧
    (∀ e rest, s.frontEnd.resetReq = false → s.frontEnd.i2cQ = e :: rest →
      step s = exec e.instr { s with frontEnd := { s.frontEnd with i2cQ := rest } }) ∧
    (∀ e rest, s.frontEnd.resetReq = false → s.frontEnd.i2cQ = [] → s.frontEnd.uartQ = e :: rest →
      step s = exec e.instr { s with frontEnd := { s.frontEnd with uartQ := rest } }) ∧
    (s.Quiet → step s = .next s)

/-- R112: of an I2C event and a UART event that arrive together, in either order, the I2C event is taken first and
the UART event stays pending (notes/assumptions/4.md). -/
def Obligations.CoincidentI2cEventIsTakenFirst : Prop :=
  ∀ (s : State) (u c : Word) (i : Instr) (x : UartEvent) (rest : List (List Stimulus)), s.cfg.legal = true →
    s.Quiet → decode u = .ok x.instr → decode c = .ok i → fromI2c i = true →
    s.input = [.word u, .word c] :: rest ∨ s.input = [.word c, .word u] :: rest →
    step s = exec i { s with input := rest, frontEnd := { s.frontEnd with uartQ := [x] } }

/-- R111, R126: an asserted reset is taken before everything else that is pending or arrives with it, and discards it:
whatever else comes with it but a reserved word, the step leaves the event sources at reset and the units at their reset values.
That what arrives in RESET's own slot is discarded too is notes/assumptions/5.md; that `input` and `returned` are kept
is 2.md and 6.md there, that no burst is open afterwards 8.md, and that the bus is idle even after a write transfer
12.md. -/
def Obligations.ResetDiscardsPendingEvents : Prop :=
  ∀ (s : State) (slot : List Stimulus) (rest : List (List Stimulus)), s.cfg.legal = true →
    s.input = slot :: rest → Stimulus.resetInput ∈ slot ∨ Stimulus.word 0x8000 ∈ slot →
    (∀ e, Stimulus.word e ∈ slot → wordWellFormed e = true) →
    step s = .next { State.powerUp s.cfg with input := rest, returned := s.returned }

/-- R51: a run is one total order of events. Placing the words of a list of events, one a slot, and stepping once for
each is running the events, refusals included. The slots are the model's (notes/assumptions/2.md and 3.md). -/
def Obligations.StepsOnPlacedWordsAreTheEventRun : Prop :=
  ∀ (is : List Instr) (s : State), s.cfg.legal = true → s.Quiet →
    Host.Core.run Sys2Proof.core is.length { s with input := is.map (fun i => [.word (encode i)]) ++ s.input } =
      runEvents is s

/-- R111: no event stays pending for ever. With nothing more arriving, one step for each pending event and one for an
asserted reset leave nothing pending. -/
def Obligations.PendingEventsAreAllTaken : Prop :=
  ∀ s : State, s.WithinContract → s.input = [] →
    ∃ t, Host.Core.run Sys2Proof.core (s.frontEnd.i2cQ.length + s.frontEnd.uartQ.length + 1) s = .next t ∧ t.Quiet

/-! The front-ends (30_encoding.md). -/

/-- R65(a): START with the block's own address delivers I2C_ADDR_W or I2C_ADDR_R by the R/W bit. -/
def Obligations.OwnAddressIsAnswered : Prop :=
  ∀ (s : State) (rest : List (List Stimulus)), s.cfg.legal = true → s.Quiet →
    (s.input = [.i2cStart (s.cfg.i2cAddr ++ (0 : BitVec 1))] :: rest →
      step s = exec .i2cAddrW { s with input := rest, frontEnd := { s.frontEnd with bus := .writing } }) ∧
    (s.input = [.i2cStart (s.cfg.i2cAddr ++ (1 : BitVec 1))] :: rest →
      step s = exec .i2cAddrR { s with input := rest, frontEnd := { s.frontEnd with bus := .reading } })

/-- R65(a), R108: START with another address delivers nothing. That covers the general call and the first byte of a
10-bit address, whatever the legal address is. What a step without an event answers is notes/assumptions/21.md. -/
def Obligations.OtherAddressIsIgnored : Prop :=
  ∀ (s : State) (a : Byte) (rest : List (List Stimulus)), s.cfg.legal = true → s.Quiet →
    s.input = [.i2cStart a] :: rest →
    (a.toNat / 2 ≠ s.cfg.i2cAddr.toNat →
      step s = .next { s with input := rest, frontEnd := { s.frontEnd with bus := .ignoring } }) ∧
    (a.toNat < 0x10 ∨ 0xF0 ≤ a.toNat → a.toNat / 2 ≠ s.cfg.i2cAddr.toNat)

/-- R65(b), (c), (d), R66: within a transfer a written byte is a register-select of its low 8 bits, a byte clocked out
is I2C_RD_BYTE, and STOP is I2C_STOP; the master's ACK bit is no event. The width of the received word is
notes/assumptions/11.md, the ACK bit 13.md, what a step without an event answers 21.md. -/
def Obligations.AddressedTransferDeliversItsEvents : Prop :=
  ∀ (s : State) (received : Nat) (ack : Bool) (rest : List (List Stimulus)), s.cfg.legal = true → s.Quiet →
    (s.frontEnd.bus = .writing → s.input = [.i2cWrite received] :: rest →
      step s = exec (.i2cWrByte (BitVec.ofNat 8 (received % 256))) { s with input := rest }) ∧
    (s.frontEnd.bus = .reading → s.input = [.i2cRead] :: rest →
      step s = exec .i2cRdByte { s with input := rest }) ∧
    (s.frontEnd.bus = .writing ∨ s.frontEnd.bus = .reading → s.input = [.i2cStop] :: rest →
      step s = exec .i2cStop { s with input := rest, frontEnd := { s.frontEnd with bus := .idle } }) ∧
    (s.input = [.i2cMasterAck ack] :: rest → step s = .next { s with input := rest })

/-- R108: a transfer to another target changes no Responder state, to its STOP. That its STOP is not passed on is the
model's choice (notes/assumptions/9.md); that the bytes of one deliver nothing is 13.md, what a step without an event
answers 21.md. -/
def Obligations.ForeignTransferIsUnseen : Prop :=
  ∀ (s : State) (received : Nat) (rest : List (List Stimulus)), s.cfg.legal = true → s.Quiet →
    s.frontEnd.bus = .ignoring →
    (s.input = [.i2cWrite received] :: rest ∨ s.input = [.i2cRead] :: rest →
      step s = .next { s with input := rest }) ∧
    (s.input = [.i2cStop] :: rest →
      step s = .next { s with input := rest, frontEnd := { s.frontEnd with bus := .idle } })

/-- R62, R63: a character is delivered whatever its stop bit, and opens or continues a burst; an idle line delivers
RX_IDLE when the gap of an open burst reaches `RX_IDLE_BITS`, once, and never without an open burst. How idle time
is counted and what a burst is are notes/assumptions/8.md and 10.md, what a step without an event answers 21.md, and
what holds where `RX_IDLE_BITS` is 0 is 22.md. -/
def Obligations.UartLineDeliversBytesAndBurstEnd : Prop :=
  ∀ (s : State) (d : Byte) (stopBit : Bool) (bits : Nat) (rest : List (List Stimulus)), s.cfg.legal = true →
    s.Quiet →
    (s.input = [.uartChar d stopBit] :: rest →
      step s = exec (.rxByte d) { s with input := rest, frontEnd := { s.frontEnd with burst := some 0 } }) ∧
    (∀ gap, s.frontEnd.burst = some gap → s.input = [.uartIdle bits] :: rest →
      (s.cfg.rxIdleBits ≤ gap + bits →
        step s = exec .rxIdle { s with input := rest, frontEnd := { s.frontEnd with burst := none } }) ∧
      (gap + bits < s.cfg.rxIdleBits →
        step s = .next { s with input := rest, frontEnd := { s.frontEnd with burst := some (gap + bits) } })) ∧
    (s.frontEnd.burst = none → s.input = [.uartIdle bits] :: rest → step s = .next { s with input := rest })

/-- R114 with R65: what the front-ends deliver is never refused. From every state of a run within the contract, a step
answers a next state, and the run stays within the contract. -/
def Obligations.WireActivityIsNeverRefused : Prop :=
  ∀ s : State, s.WithinContract → ∃ t, step s = .next t ∧ t.WithinContract

/-- The reset state is within the contract. -/
def Obligations.ResetIsWithinContract : Prop :=
  State.reset.WithinContract ∧
    ∀ c : Config, c.legal = true → (State.powerUp c).WithinContract

/-! Invariants. -/

/-- The invariant of the block (R18, R19, R23, R31) is kept by every step, whatever the environment does. -/
def Obligations.StepKeepsBlockInvariant : Prop :=
  ∀ s t : State, s.Inv → step s = .next t → t.Inv

/-- The invariant holds at reset, and at power-up under every configuration. -/
def Obligations.ResetMeetsBlockInvariant : Prop :=
  State.reset.Inv ∧ ∀ c : Config, (State.powerUp c).Inv

/-- R129, R23: no step changes the parameters, and no step but RESET's changes `REG[0]`; where `REG[0]` is the identity
no step at all changes it. That the parameters are a field of the state is notes/assumptions/1.md. -/
def Obligations.IdentityIsFixedForARun : Prop :=
  ∀ s t : State, step s = .next t →
    t.cfg = s.cfg ∧ (s.regs.id = s.cfg.i2cAddr.zeroExtend 16 → t.regs.id = s.regs.id)

/-- R8: the bytes returned only grow, one byte for each I2C_RD_BYTE and none for any other event. That RESET
keeps them is notes/assumptions/6.md. -/
def Obligations.OneByteReturnedPerReadEvent : Prop :=
  ∀ (is : List Instr) (s t : State), runEvents is s = .next t →
    ∃ bs, t.returned = s.returned ++ bs ∧ bs.length = is.count .i2cRdByte

/-- R68: a field is assembled by shift and or, which is `h ++ l`, and is `256 × h + l` exactly (R89). -/
def Obligations.AssemblyIsExact : Prop :=
  ∀ h l : Byte, assemble h l = (h.zeroExtend 16 <<< 8) ||| l.zeroExtend 16 ∧ assemble h l = h ++ l ∧
    (assemble h l).toNat = 256 * h.toNat + l.toNat

/-- R67 with R68: assembling the two bytes of a value, first byte high, gives the value back. -/
def Obligations.BytesOfValueReassemble : Prop :=
  ∀ v : Word, assemble (highByte v) (lowByte v) = v
end

