-- ==== Sys2Proof/Laws/State.lean ====
section
/-! SUPPORT. One lemma for each field of each update of a state, and of the operations built from them. -/

namespace Sys2Proof.Machine

/-! `State.withRegs`. -/
@[simp] theorem State.withRegs_cfg (s : State) (r : RegStore) : (s.withRegs r).cfg = s.cfg := rfl
@[simp] theorem State.withRegs_regs (s : State) (r : RegStore) : (s.withRegs r).regs = r := rfl
@[simp] theorem State.withRegs_parser (s : State) (r : RegStore) : (s.withRegs r).parser = s.parser := rfl
@[simp] theorem State.withRegs_responder (s : State) (r : RegStore) : (s.withRegs r).responder = s.responder := rfl
@[simp] theorem State.withRegs_frontEnd (s : State) (r : RegStore) : (s.withRegs r).frontEnd = s.frontEnd := rfl
@[simp] theorem State.withRegs_input (s : State) (r : RegStore) : (s.withRegs r).input = s.input := rfl
@[simp] theorem State.withRegs_returned (s : State) (r : RegStore) : (s.withRegs r).returned = s.returned := rfl

/-! `State.withParser`. -/
@[simp] theorem State.withParser_cfg (s : State) (p : Parser) : (s.withParser p).cfg = s.cfg := rfl
@[simp] theorem State.withParser_regs (s : State) (p : Parser) : (s.withParser p).regs = s.regs := rfl
@[simp] theorem State.withParser_parser (s : State) (p : Parser) : (s.withParser p).parser = p := rfl
@[simp] theorem State.withParser_responder (s : State) (p : Parser) : (s.withParser p).responder = s.responder := rfl
@[simp] theorem State.withParser_frontEnd (s : State) (p : Parser) : (s.withParser p).frontEnd = s.frontEnd := rfl
@[simp] theorem State.withParser_input (s : State) (p : Parser) : (s.withParser p).input = s.input := rfl
@[simp] theorem State.withParser_returned (s : State) (p : Parser) : (s.withParser p).returned = s.returned := rfl

/-! `State.withResponder`. -/
@[simp] theorem State.withResponder_cfg (s : State) (r : Responder) : (s.withResponder r).cfg = s.cfg := rfl
@[simp] theorem State.withResponder_regs (s : State) (r : Responder) : (s.withResponder r).regs = s.regs := rfl
@[simp] theorem State.withResponder_parser (s : State) (r : Responder) : (s.withResponder r).parser = s.parser := rfl
@[simp] theorem State.withResponder_responder (s : State) (r : Responder) : (s.withResponder r).responder = r := rfl
@[simp] theorem State.withResponder_frontEnd (s : State) (r : Responder) : (s.withResponder r).frontEnd = s.frontEnd := rfl
@[simp] theorem State.withResponder_input (s : State) (r : Responder) : (s.withResponder r).input = s.input := rfl
@[simp] theorem State.withResponder_returned (s : State) (r : Responder) : (s.withResponder r).returned = s.returned := rfl

/-! `State.withFrontEnd`. -/
@[simp] theorem State.withFrontEnd_cfg (s : State) (f : FrontEnd) : (s.withFrontEnd f).cfg = s.cfg := rfl
@[simp] theorem State.withFrontEnd_regs (s : State) (f : FrontEnd) : (s.withFrontEnd f).regs = s.regs := rfl
@[simp] theorem State.withFrontEnd_parser (s : State) (f : FrontEnd) : (s.withFrontEnd f).parser = s.parser := rfl
@[simp] theorem State.withFrontEnd_responder (s : State) (f : FrontEnd) : (s.withFrontEnd f).responder = s.responder := rfl
@[simp] theorem State.withFrontEnd_frontEnd (s : State) (f : FrontEnd) : (s.withFrontEnd f).frontEnd = f := rfl
@[simp] theorem State.withFrontEnd_input (s : State) (f : FrontEnd) : (s.withFrontEnd f).input = s.input := rfl
@[simp] theorem State.withFrontEnd_returned (s : State) (f : FrontEnd) : (s.withFrontEnd f).returned = s.returned := rfl

/-! `State.withInput`. -/
@[simp] theorem State.withInput_cfg (s : State) (x : List (List Stimulus)) : (s.withInput x).cfg = s.cfg := rfl
@[simp] theorem State.withInput_regs (s : State) (x : List (List Stimulus)) : (s.withInput x).regs = s.regs := rfl
@[simp] theorem State.withInput_parser (s : State) (x : List (List Stimulus)) : (s.withInput x).parser = s.parser := rfl
@[simp] theorem State.withInput_responder (s : State) (x : List (List Stimulus)) : (s.withInput x).responder = s.responder := rfl
@[simp] theorem State.withInput_frontEnd (s : State) (x : List (List Stimulus)) : (s.withInput x).frontEnd = s.frontEnd := rfl
@[simp] theorem State.withInput_input (s : State) (x : List (List Stimulus)) : (s.withInput x).input = x := rfl
@[simp] theorem State.withInput_returned (s : State) (x : List (List Stimulus)) : (s.withInput x).returned = s.returned := rfl

/-! `State.emit`. -/
@[simp] theorem State.emit_cfg (s : State) (b : Byte) : (s.emit b).cfg = s.cfg := rfl
@[simp] theorem State.emit_regs (s : State) (b : Byte) : (s.emit b).regs = s.regs := rfl
@[simp] theorem State.emit_parser (s : State) (b : Byte) : (s.emit b).parser = s.parser := rfl
@[simp] theorem State.emit_responder (s : State) (b : Byte) : (s.emit b).responder = s.responder := rfl
@[simp] theorem State.emit_frontEnd (s : State) (b : Byte) : (s.emit b).frontEnd = s.frontEnd := rfl
@[simp] theorem State.emit_input (s : State) (b : Byte) : (s.emit b).input = s.input := rfl
@[simp] theorem State.emit_returned (s : State) (b : Byte) : (s.emit b).returned = s.returned ++ [b] := rfl

/-! `State.resetBlock` (R126). -/
@[simp] theorem State.resetBlock_cfg (s : State) : s.resetBlock.cfg = s.cfg := rfl
@[simp] theorem State.resetBlock_regs (s : State) : s.resetBlock.regs = RegStore.reset s.cfg := rfl
@[simp] theorem State.resetBlock_parser (s : State) : s.resetBlock.parser = Parser.reset := rfl
@[simp] theorem State.resetBlock_responder (s : State) : s.resetBlock.responder = Responder.reset := rfl
@[simp] theorem State.resetBlock_frontEnd (s : State) : s.resetBlock.frontEnd = FrontEnd.reset := rfl
@[simp] theorem State.resetBlock_input (s : State) : s.resetBlock.input = s.input := rfl
@[simp] theorem State.resetBlock_returned (s : State) : s.resetBlock.returned = s.returned := rfl

/-! `State.completeFrame` (R83). -/
@[simp] theorem State.completeFrame_cfg (s : State) (b : Byte) : (s.completeFrame b).cfg = s.cfg := rfl
@[simp] theorem State.completeFrame_regs (s : State) (b : Byte) : (s.completeFrame b).regs =
    s.regs.publish s.parser.stage1 s.parser.stage2 (assemble s.parser.hi b) := rfl
@[simp] theorem State.completeFrame_parser (s : State) (b : Byte) : (s.completeFrame b).parser =
    s.parser.finishFrame := rfl
@[simp] theorem State.completeFrame_responder (s : State) (b : Byte) : (s.completeFrame b).responder =
    s.responder := rfl
@[simp] theorem State.completeFrame_frontEnd (s : State) (b : Byte) : (s.completeFrame b).frontEnd = s.frontEnd := rfl
@[simp] theorem State.completeFrame_input (s : State) (b : Byte) : (s.completeFrame b).input = s.input := rfl
@[simp] theorem State.completeFrame_returned (s : State) (b : Byte) : (s.completeFrame b).returned = s.returned := rfl

/-! `State.serveByte` (R101). -/
@[simp] theorem State.serveByte_cfg (s : State) : s.serveByte.cfg = s.cfg := rfl
@[simp] theorem State.serveByte_regs (s : State) : s.serveByte.regs = s.regs := rfl
@[simp] theorem State.serveByte_parser (s : State) : s.serveByte.parser = s.parser := rfl
@[simp] theorem State.serveByte_responder (s : State) : s.serveByte.responder = { s.responder with txq := s.nextByte.2 } := rfl
@[simp] theorem State.serveByte_frontEnd (s : State) : s.serveByte.frontEnd = s.frontEnd := rfl
@[simp] theorem State.serveByte_input (s : State) : s.serveByte.input = s.input := rfl
@[simp] theorem State.serveByte_returned (s : State) : s.serveByte.returned = s.returned ++ [s.nextByte.1] := rfl

/-! Fields of the Parser's and the Responder's operations. -/
@[simp] theorem Parser.finishFrame_pstate (p : Parser) : (p.finishFrame).pstate = .searching := rfl
@[simp] theorem Parser.finishFrame_cnt (p : Parser) : (p.finishFrame).cnt = 0 := rfl
@[simp] theorem Parser.finishFrame_winV (p : Parser) : (p.finishFrame).winV = false := rfl
@[simp] theorem Parser.finishFrame_win (p : Parser) : (p.finishFrame).win = p.win := rfl
@[simp] theorem Parser.finishFrame_hi (p : Parser) : (p.finishFrame).hi = p.hi := rfl
@[simp] theorem Parser.finishFrame_stage1 (p : Parser) : (p.finishFrame).stage1 = p.stage1 := rfl
@[simp] theorem Parser.finishFrame_stage2 (p : Parser) : (p.finishFrame).stage2 = p.stage2 := rfl
@[simp] theorem Parser.finishFrame_status (p : Parser) : (p.finishFrame).status = !p.status := rfl
@[simp] theorem Parser.endBurst_pstate (p : Parser) : (p.endBurst).pstate = .searching := rfl
@[simp] theorem Parser.endBurst_cnt (p : Parser) : (p.endBurst).cnt = 0 := rfl
@[simp] theorem Parser.endBurst_winV (p : Parser) : (p.endBurst).winV = false := rfl
@[simp] theorem Parser.endBurst_win (p : Parser) : (p.endBurst).win = p.win := rfl
@[simp] theorem Parser.endBurst_hi (p : Parser) : (p.endBurst).hi = p.hi := rfl
@[simp] theorem Parser.endBurst_stage1 (p : Parser) : (p.endBurst).stage1 = p.stage1 := rfl
@[simp] theorem Parser.endBurst_stage2 (p : Parser) : (p.endBurst).stage2 = p.stage2 := rfl
@[simp] theorem Parser.endBurst_status (p : Parser) : (p.endBurst).status = p.status := rfl
@[simp] theorem Parser.takeHigh_pstate (p : Parser) (b : Byte) : (p.takeHigh b).pstate = p.pstate := rfl
@[simp] theorem Parser.takeHigh_cnt (p : Parser) (b : Byte) : (p.takeHigh b).cnt = 1 := rfl
@[simp] theorem Parser.takeHigh_winV (p : Parser) (b : Byte) : (p.takeHigh b).winV = p.winV := rfl
@[simp] theorem Parser.takeHigh_win (p : Parser) (b : Byte) : (p.takeHigh b).win = p.win := rfl
@[simp] theorem Parser.takeHigh_hi (p : Parser) (b : Byte) : (p.takeHigh b).hi = b := rfl
@[simp] theorem Parser.takeHigh_stage1 (p : Parser) (b : Byte) : (p.takeHigh b).stage1 = p.stage1 := rfl
@[simp] theorem Parser.takeHigh_stage2 (p : Parser) (b : Byte) : (p.takeHigh b).stage2 = p.stage2 := rfl
@[simp] theorem Parser.takeHigh_status (p : Parser) (b : Byte) : (p.takeHigh b).status = p.status := rfl
@[simp] theorem Parser.finishField1_pstate (p : Parser) (b : Byte) : (p.finishField1 b).pstate = .consumingField2 := rfl
@[simp] theorem Parser.finishField1_cnt (p : Parser) (b : Byte) : (p.finishField1 b).cnt = 0 := rfl
@[simp] theorem Parser.finishField1_winV (p : Parser) (b : Byte) : (p.finishField1 b).winV = p.winV := rfl
@[simp] theorem Parser.finishField1_win (p : Parser) (b : Byte) : (p.finishField1 b).win = p.win := rfl
@[simp] theorem Parser.finishField1_hi (p : Parser) (b : Byte) : (p.finishField1 b).hi = p.hi := rfl
@[simp] theorem Parser.finishField1_stage1 (p : Parser) (b : Byte) : (p.finishField1 b).stage1 = assemble p.hi b := rfl
@[simp] theorem Parser.finishField1_stage2 (p : Parser) (b : Byte) : (p.finishField1 b).stage2 = p.stage2 := rfl
@[simp] theorem Parser.finishField1_status (p : Parser) (b : Byte) : (p.finishField1 b).status = p.status := rfl
@[simp] theorem Parser.finishField2_pstate (p : Parser) (b : Byte) : (p.finishField2 b).pstate = .consumingField3 := rfl
@[simp] theorem Parser.finishField2_cnt (p : Parser) (b : Byte) : (p.finishField2 b).cnt = 0 := rfl
@[simp] theorem Parser.finishField2_winV (p : Parser) (b : Byte) : (p.finishField2 b).winV = p.winV := rfl
@[simp] theorem Parser.finishField2_win (p : Parser) (b : Byte) : (p.finishField2 b).win = p.win := rfl
@[simp] theorem Parser.finishField2_hi (p : Parser) (b : Byte) : (p.finishField2 b).hi = p.hi := rfl
@[simp] theorem Parser.finishField2_stage1 (p : Parser) (b : Byte) : (p.finishField2 b).stage1 = p.stage1 := rfl
@[simp] theorem Parser.finishField2_stage2 (p : Parser) (b : Byte) : (p.finishField2 b).stage2 = assemble p.hi b := rfl
@[simp] theorem Parser.finishField2_status (p : Parser) (b : Byte) : (p.finishField2 b).status = p.status := rfl
@[simp] theorem Responder.enter_selValid (r : Responder) (d : Phase) : (r.enter d).selValid = r.selValid := rfl
@[simp] theorem Responder.enter_sel (r : Responder) (d : Phase) : (r.enter d).sel = r.sel := rfl
@[simp] theorem Responder.enter_txq (r : Responder) (d : Phase) : (r.enter d).txq = [] := rfl
@[simp] theorem Responder.enter_phase (r : Responder) (d : Phase) : (r.enter d).phase = d := rfl
@[simp] theorem Responder.select_selValid (r : Responder) (d : Byte) : (r.select d).selValid = true := rfl
@[simp] theorem Responder.select_sel (r : Responder) (d : Byte) : (r.select d).sel = d := rfl
@[simp] theorem Responder.select_txq (r : Responder) (d : Byte) : (r.select d).txq = r.txq := rfl
@[simp] theorem Responder.select_phase (r : Responder) (d : Byte) : (r.select d).phase = r.phase := rfl
@[simp] theorem RegStore.publish_id (r : RegStore) (a b c : Word) : (r.publish a b c).id = r.id := rfl
@[simp] theorem RegStore.publish_pm1 (r : RegStore) (a b c : Word) : (r.publish a b c).pm1 = a := rfl
@[simp] theorem RegStore.publish_pm25 (r : RegStore) (a b c : Word) : (r.publish a b c).pm25 = b := rfl
@[simp] theorem RegStore.publish_pm10 (r : RegStore) (a b c : Word) : (r.publish a b c).pm10 = c := rfl

end Sys2Proof.Machine
end

