-- ==== Sys2Proof/Laws/Ops.lean ====
section
/-! SUPPORT. One lemma for each shared operation that says everything it can do, and what a whole `exec` can do to
each component of the state. A proof cites these and does not unfold the operation. -/

namespace Sys2Proof.Machine

/-! Operands. -/

@[simp] theorem highByte_eq (v : Word) : highByte v = v.extractLsb 15 8 := rfl

@[simp] theorem lowByte_eq (v : Word) : lowByte v = v.extractLsb 7 0 := rfl

/-! The Parser. -/

/-- While searching, a byte fills an empty window, or finds the marker, or replaces the byte in the window. -/
theorem Parser.search_cases (p : Parser) (b : Byte) :
    (p.winV = false ∧ p.search b = { p with win := b, winV := true }) ∨
    (p.winV = true ∧ (p.win = Config.marker0 ∧ b = Config.marker1) ∧
      p.search b = { p with winV := false, cnt := 0, pstate := .consumingHeader }) ∨
    (p.winV = true ∧ ¬(p.win = Config.marker0 ∧ b = Config.marker1) ∧ p.search b = { p with win := b }) := by
  unfold Parser.search
  cases hv : p.winV
  · exact .inl ⟨rfl, by simp⟩
  · by_cases hm : p.win = Config.marker0 ∧ b = Config.marker1
    · exact .inr (.inl ⟨rfl, hm, by simp [hm]⟩)
    · exact .inr (.inr ⟨rfl, hm, by simp [hm]⟩)

/-- The position counter is one bit. -/
theorem Parser.cnt_cases (p : Parser) : p.cnt = 0 ∨ p.cnt = 1 := by
  have := p.cnt.isLt
  simp only [Fin.ext_iff, Fin.val_zero, Fin.val_one]
  omega

/-! RX_BYTE, by parser state. -/

theorem execRxByte_searching (s : State) (b : Byte) (h : s.parser.pstate = .searching) :
    execRxByte b s = .next (s.withParser (s.parser.search b)) := by
  simp [execRxByte, h]

theorem execRxByte_header (s : State) (b : Byte) (h : s.parser.pstate = .consumingHeader) :
    execRxByte b s = .next (s.withParser s.parser.skipReserved) := by
  simp [execRxByte, h]

theorem execRxByte_high (s : State) (b : Byte) (hs : s.parser.pstate ≠ .searching)
    (hh : s.parser.pstate ≠ .consumingHeader) (h0 : s.parser.cnt = 0) :
    execRxByte b s = .next (s.withParser (s.parser.takeHigh b)) := by
  cases h : s.parser.pstate <;> simp_all [execRxByte]

theorem execRxByte_low1 (s : State) (b : Byte) (h : s.parser.pstate = .consumingField1) (h1 : s.parser.cnt = 1) :
    execRxByte b s = .next (s.withParser (s.parser.finishField1 b)) := by
  simp [execRxByte, h, h1]

theorem execRxByte_low2 (s : State) (b : Byte) (h : s.parser.pstate = .consumingField2) (h1 : s.parser.cnt = 1) :
    execRxByte b s = .next (s.withParser (s.parser.finishField2 b)) := by
  simp [execRxByte, h, h1]

theorem execRxByte_last (s : State) (b : Byte) (h : s.parser.pstate = .consumingField3) (h1 : s.parser.cnt = 1) :
    execRxByte b s = .next (s.completeFrame b) := by
  simp [execRxByte, h, h1]

/-- Everything RX_BYTE can do: complete a frame, or write the Parser alone and publish nothing. -/
theorem execRxByte_cases (s : State) (b : Byte) :
    (s.parser.pstate = .consumingField3 ∧ s.parser.cnt = 1 ∧ execRxByte b s = .next (s.completeFrame b)) ∨
    (¬(s.parser.pstate = .consumingField3 ∧ s.parser.cnt = 1) ∧
      ∃ p, execRxByte b s = .next (s.withParser p) ∧ p.status = s.parser.status) := by
  by_cases hl : s.parser.pstate = .consumingField3 ∧ s.parser.cnt = 1
  · exact .inl ⟨hl.1, hl.2, execRxByte_last s b hl.1 hl.2⟩
  · refine .inr ⟨hl, ?_⟩
    rcases hs : s.parser.pstate with _ | _ | _ | _ | _
    · refine ⟨_, execRxByte_searching s b hs, ?_⟩
      rcases s.parser.search_cases b with ⟨-, h⟩ | ⟨-, -, h⟩ | ⟨-, -, h⟩ <;> rw [h]
    · refine ⟨_, execRxByte_header s b hs, ?_⟩
      unfold Parser.skipReserved
      split <;> rfl
    · rcases s.parser.cnt_cases with h0 | h1
      · exact ⟨_, execRxByte_high s b (by simp [hs]) (by simp [hs]) h0, rfl⟩
      · exact ⟨_, execRxByte_low1 s b hs h1, rfl⟩
    · rcases s.parser.cnt_cases with h0 | h1
      · exact ⟨_, execRxByte_high s b (by simp [hs]) (by simp [hs]) h0, rfl⟩
      · exact ⟨_, execRxByte_low2 s b hs h1, rfl⟩
    · rcases s.parser.cnt_cases with h0 | h1
      · exact ⟨_, execRxByte_high s b (by simp [hs]) (by simp [hs]) h0, rfl⟩
      · exact absurd ⟨hs, h1⟩ hl

/-! The Responder. -/

/-- The byte I2C_RD_BYTE returns and the queue it leaves: the head and the rest of the queue, which an empty queue
has first been filled with the two bytes of one sample. -/
theorem State.nextByte_cases (s : State) :
    (s.responder.txq = [] ∧ s.nextByte = (highByte s.requestValue, [lowByte s.requestValue])) ∨
    (∃ b rest, s.responder.txq = b :: rest ∧ s.nextByte = (b, rest)) := by
  unfold State.nextByte
  cases h : s.responder.txq with
  | nil => exact .inl ⟨rfl, rfl⟩
  | cons b rest => exact .inr ⟨b, rest, rfl, rfl⟩

theorem execI2cRdByte_next (s : State) (h : s.responder.phase = .read) : execI2cRdByte s = .next s.serveByte := by
  simp [execI2cRdByte, h]

theorem execI2cWrByte_next (s : State) (d : Byte) (h : s.responder.phase = .write) :
    execI2cWrByte d s = .next (s.withResponder (s.responder.select d)) := by
  simp [execI2cWrByte, h]

theorem execReset_next (s : State) (h : s.cfg.legal = true) : execReset s = .next s.resetBlock := by
  simp [execReset, h]

/-! What an event can do. -/

/-- If an event answers a next state, it is one of these. -/
theorem exec_next_cases {i : Instr} {s t : State} (h : exec i s = .next t) :
    (∃ b, i = .rxByte b ∧ s.parser.pstate = .consumingField3 ∧ s.parser.cnt = 1 ∧ t = s.completeFrame b) ∨
    (∃ b p, i = .rxByte b ∧ ¬(s.parser.pstate = .consumingField3 ∧ s.parser.cnt = 1) ∧
      p.status = s.parser.status ∧ t = s.withParser p) ∨
    (i = .rxIdle ∧ t = s.withParser s.parser.endBurst) ∨
    (i = .i2cAddrW ∧ t = s.withResponder (s.responder.enter .write)) ∨
    (i = .i2cAddrR ∧ t = s.withResponder (s.responder.enter .read)) ∨
    (∃ d, i = .i2cWrByte d ∧ s.responder.phase = .write ∧ t = s.withResponder (s.responder.select d)) ∨
    (i = .i2cRdByte ∧ s.responder.phase = .read ∧ t = s.serveByte) ∨
    (i = .i2cStop ∧ t = s.withResponder (s.responder.enter .none)) ∨
    (i = .reset ∧ s.cfg.legal = true ∧ t = s.resetBlock) := by
  cases i with
  | rxByte b =>
    rcases execRxByte_cases s b with ⟨h3, h1, he⟩ | ⟨hn, p, he, hp⟩
    · exact .inl ⟨b, rfl, h3, h1, by simp_all [exec]⟩
    · exact .inr (.inl ⟨b, p, rfl, hn, hp, by simp_all [exec]⟩)
  | rxIdle => exact .inr (.inr (.inl ⟨rfl, by simpa [exec, execRxIdle] using h.symm⟩))
  | i2cAddrW => exact .inr (.inr (.inr (.inl ⟨rfl, by simpa [exec, execI2cAddrW] using h.symm⟩)))
  | i2cAddrR => exact .inr (.inr (.inr (.inr (.inl ⟨rfl, by simpa [exec, execI2cAddrR] using h.symm⟩))))
  | i2cWrByte d =>
    by_cases hp : s.responder.phase = .write
    · exact .inr (.inr (.inr (.inr (.inr (.inl ⟨d, rfl, hp, by simpa [exec, execI2cWrByte, hp] using h.symm⟩)))))
    · simp [exec, execI2cWrByte, hp] at h
  | i2cRdByte =>
    by_cases hp : s.responder.phase = .read
    · exact .inr (.inr (.inr (.inr (.inr (.inr (.inl ⟨rfl, hp, by simpa [exec, execI2cRdByte, hp] using h.symm⟩))))))
    · simp [exec, execI2cRdByte, hp] at h
  | i2cStop =>
    exact .inr (.inr (.inr (.inr (.inr (.inr (.inr (.inl ⟨rfl, by simpa [exec, execI2cStop] using h.symm⟩)))))))
  | reset =>
    by_cases hp : s.cfg.legal = true
    · exact .inr (.inr (.inr (.inr (.inr (.inr (.inr (.inr ⟨rfl, hp, by simpa [exec, execReset, hp] using h.symm⟩)))))))
    · simp [exec, execReset, hp] at h

/-- If an event is refused, it is a data event outside its direction, or RESET with an illegal address (R114). -/
theorem exec_refused_cases {i : Instr} {s : State} {r : Refusal} (h : exec i s = .refused r) :
    (∃ d, i = .i2cWrByte d ∧ s.responder.phase ≠ .write ∧ r = .wrongDirection) ∨
    (i = .i2cRdByte ∧ s.responder.phase ≠ .read ∧ r = .wrongDirection) ∨
    (i = .reset ∧ s.cfg.legal ≠ true ∧ r = .badConfig) := by
  cases i with
  | rxByte b => rcases execRxByte_cases s b with ⟨-, -, he⟩ | ⟨-, p, he, -⟩ <;> simp [exec, he] at h
  | rxIdle => simp [exec, execRxIdle] at h
  | i2cAddrW => simp [exec, execI2cAddrW] at h
  | i2cAddrR => simp [exec, execI2cAddrR] at h
  | i2cWrByte d =>
    by_cases hp : s.responder.phase = .write
    · simp [exec, execI2cWrByte, hp] at h
    · exact .inl ⟨d, rfl, hp, by simpa [exec, execI2cWrByte, hp] using h.symm⟩
  | i2cRdByte =>
    by_cases hp : s.responder.phase = .read
    · simp [exec, execI2cRdByte, hp] at h
    · exact .inr (.inl ⟨rfl, hp, by simpa [exec, execI2cRdByte, hp] using h.symm⟩)
  | i2cStop => simp [exec, execI2cStop] at h
  | reset =>
    by_cases hp : s.cfg.legal = true
    · simp [exec, execReset, hp] at h
    · exact .inr (.inr ⟨rfl, hp, by simpa [exec, execReset, hp] using h.symm⟩)

/-- No event changes the parameters (R15). -/
theorem exec_cfg {i : Instr} {s t : State} (h : exec i s = .next t) : t.cfg = s.cfg := by
  rcases exec_next_cases h with ⟨b, -, -, -, rfl⟩ | ⟨b, p, -, -, -, rfl⟩ | ⟨-, rfl⟩ | ⟨-, rfl⟩ | ⟨-, rfl⟩ |
    ⟨d, -, -, rfl⟩ | ⟨-, -, rfl⟩ | ⟨-, rfl⟩ | ⟨-, -, rfl⟩ <;> rfl

/-- No event reads or changes what the environment will do: the input passes through. -/
theorem exec_input {i : Instr} {s t : State} (h : exec i s = .next t) : t.input = s.input := by
  rcases exec_next_cases h with ⟨b, -, -, -, rfl⟩ | ⟨b, p, -, -, -, rfl⟩ | ⟨-, rfl⟩ | ⟨-, rfl⟩ | ⟨-, rfl⟩ |
    ⟨d, -, -, rfl⟩ | ⟨-, -, rfl⟩ | ⟨-, rfl⟩ | ⟨-, -, rfl⟩ <;> rfl

/-- No event but RESET writes the event sources, and RESET leaves them at reset (R111). -/
theorem exec_frontEnd {i : Instr} {s t : State} (h : exec i s = .next t) :
    (i ≠ .reset → t.frontEnd = s.frontEnd) ∧ (i = .reset → t.frontEnd = FrontEnd.reset) := by
  rcases exec_next_cases h with ⟨b, rfl, -, -, rfl⟩ | ⟨b, p, rfl, -, -, rfl⟩ | ⟨rfl, rfl⟩ | ⟨rfl, rfl⟩ | ⟨rfl, rfl⟩ |
    ⟨d, rfl, -, rfl⟩ | ⟨rfl, -, rfl⟩ | ⟨rfl, rfl⟩ | ⟨rfl, -, rfl⟩ <;> simp

/-! Runs of events. -/

@[simp] theorem runEvents_nil (s : State) : runEvents [] s = .next s := rfl

theorem runEvents_cons_next {i : Instr} {is : List Instr} {s t : State} (h : exec i s = .next t) :
    runEvents (i :: is) s = runEvents is t := by
  simp [runEvents, h]

/-- A run that answers a next state begins with an event that does. -/
theorem runEvents_cons_cases {i : Instr} {is : List Instr} {s t : State} (h : runEvents (i :: is) s = .next t) :
    ∃ u, exec i s = .next u ∧ runEvents is u = .next t := by
  unfold runEvents at h
  cases hu : exec i s with
  | next u => exact ⟨u, rfl, by simpa [hu] using h⟩
  | fault f => cases f
  | refused r => simp [hu] at h

/-- A run in two parts. -/
theorem runEvents_append {is js : List Instr} {s t : State} (h : runEvents is s = .next t) :
    runEvents (is ++ js) s = runEvents js t := by
  induction is generalizing s with
  | nil => simpa using congrArg (runEvents js) (by simpa [runEvents] using h)
  | cons i is ih =>
    obtain ⟨u, hu, hr⟩ := runEvents_cons_cases h
    simpa [runEvents_cons_next hu] using ih hr

end Sys2Proof.Machine
end

