-- ==== Sys2Proof/Laws/FrontEnds.lean ====
section
/-! SUPPORT. What arriving, fetching and stepping can do, said once for each. -/

namespace Sys2Proof.Machine

/-! Queues. -/

@[simp] theorem FrontEnd.pendUart_uartQ (f : FrontEnd) (e : UartEvent) : (f.pendUart e).uartQ = f.uartQ ++ [e] := rfl
@[simp] theorem FrontEnd.pendUart_i2cQ (f : FrontEnd) (e : UartEvent) : (f.pendUart e).i2cQ = f.i2cQ := rfl
@[simp] theorem FrontEnd.pendUart_resetReq (f : FrontEnd) (e : UartEvent) :
    (f.pendUart e).resetReq = f.resetReq := rfl
@[simp] theorem FrontEnd.pendUart_burst (f : FrontEnd) (e : UartEvent) : (f.pendUart e).burst = f.burst := rfl
@[simp] theorem FrontEnd.pendUart_bus (f : FrontEnd) (e : UartEvent) : (f.pendUart e).bus = f.bus := rfl
@[simp] theorem FrontEnd.pendI2c_uartQ (f : FrontEnd) (e : I2cEvent) : (f.pendI2c e).uartQ = f.uartQ := rfl
@[simp] theorem FrontEnd.pendI2c_i2cQ (f : FrontEnd) (e : I2cEvent) : (f.pendI2c e).i2cQ = f.i2cQ ++ [e] := rfl
@[simp] theorem FrontEnd.pendI2c_resetReq (f : FrontEnd) (e : I2cEvent) : (f.pendI2c e).resetReq = f.resetReq := rfl
@[simp] theorem FrontEnd.pendI2c_burst (f : FrontEnd) (e : I2cEvent) : (f.pendI2c e).burst = f.burst := rfl
@[simp] theorem FrontEnd.pendI2c_bus (f : FrontEnd) (e : I2cEvent) : (f.pendI2c e).bus = f.bus := rfl
@[simp] theorem FrontEnd.pendReset_resetReq (f : FrontEnd) : f.pendReset.resetReq = true := rfl
@[simp] theorem FrontEnd.pendReset_i2cQ (f : FrontEnd) : f.pendReset.i2cQ = f.i2cQ := rfl
@[simp] theorem FrontEnd.pendReset_uartQ (f : FrontEnd) : f.pendReset.uartQ = f.uartQ := rfl
@[simp] theorem FrontEnd.pendReset_burst (f : FrontEnd) : f.pendReset.burst = f.burst := rfl
@[simp] theorem FrontEnd.pendReset_bus (f : FrontEnd) : f.pendReset.bus = f.bus := rfl

/-! Arriving. -/

/-- The only stimulus that can be refused is a word the decoder rejects. -/
theorem FrontEnd.deliver_error {c : Config} {f : FrontEnd} {x : Stimulus} {r : Refusal}
    (h : f.deliver c x = .error r) : ∃ e, x = .word e ∧ ∃ w, decode e = .error (.reservedEvent w) ∧
      r = .reservedEvent w := by
  cases x with
  | word e =>
    unfold FrontEnd.deliver at h
    rcases hd : decode e with ⟨⟨w⟩⟩ | i
    · exact ⟨e, rfl, w, hd, by simpa [hd] using h.symm⟩
    · simp [hd] at h
  | _ => simp [FrontEnd.deliver] at h

/-- What an I2C stimulus, or any other, adds to the I2C queue and does to the bus mode: it delivers nothing to the
Responder and leaves the mode or ends a transfer to another target, or it delivers one event under the mode it fits. -/
theorem FrontEnd.deliver_i2c {c : Config} {f f' : FrontEnd} {x : Stimulus} (hw : x.isWord = false)
    (h : f.deliver c x = .ok f') :
    (f'.i2cQ = f.i2cQ ∧ (f'.bus = f.bus ∨ f'.bus = .ignoring ∨ f'.bus = .idle)) ∨
    (f'.i2cQ = f.i2cQ ++ [.addrW] ∧ f'.bus = .writing) ∨
    (f'.i2cQ = f.i2cQ ++ [.addrR] ∧ f'.bus = .reading) ∨
    (∃ d, f.bus = .writing ∧ f'.i2cQ = f.i2cQ ++ [.wrByte d] ∧ f'.bus = .writing) ∨
    (f.bus = .reading ∧ f'.i2cQ = f.i2cQ ++ [.rdByte] ∧ f'.bus = .reading) ∨
    (f'.i2cQ = f.i2cQ ++ [.stop] ∧ f'.bus = .idle) := by
  cases x with
  | word e => simp [Stimulus.isWord] at hw
  | resetInput => left; cases h; simp
  | uartChar d b => left; cases h; simp [FrontEnd.uartChar]
  | uartIdle n =>
    left
    cases h
    unfold FrontEnd.uartIdle
    split
    · simp
    · split <;> simp
  | i2cStart a =>
    cases h
    unfold FrontEnd.i2cStart
    split
    · split
      · right; right; left; simp
      · right; left; simp
    · left; simp
  | i2cWrite n =>
    cases h
    unfold FrontEnd.i2cWrite
    split
    · rename_i hb
      right; right; right; left
      exact ⟨registerIndex n, hb, rfl, hb⟩
    all_goals left; simp
  | i2cRead =>
    cases h
    unfold FrontEnd.i2cRead
    split
    · rename_i hb
      right; right; right; right; left
      exact ⟨hb, rfl, hb⟩
    all_goals left; simp
  | i2cMasterAck a => left; cases h; simp
  | i2cStop =>
    cases h
    unfold FrontEnd.i2cStop
    split
    · left; simp
    all_goals right; right; right; right; right; simp

theorem FrontEnd.deliverAll_nil (c : Config) (f : FrontEnd) : f.deliverAll c [] = .ok f := rfl

theorem FrontEnd.deliverAll_one {c : Config} {f f' : FrontEnd} {x : Stimulus} (h : f.deliver c x = .ok f') :
    f.deliverAll c [x] = .ok f' := by
  simp [FrontEnd.deliverAll, h]

/-! Fetching. -/

/-- What is taken once everything has arrived. -/
theorem State.take_cases (s : State) :
    (s.frontEnd.resetReq = true ∧
      s.take = .event .reset (s.withFrontEnd { s.frontEnd with resetReq := false })) ∨
    (s.frontEnd.resetReq = false ∧ ∃ e rest, s.frontEnd.i2cQ = e :: rest ∧
      s.take = .event e.instr (s.withFrontEnd { s.frontEnd with i2cQ := rest })) ∨
    (s.frontEnd.resetReq = false ∧ s.frontEnd.i2cQ = [] ∧ ∃ e rest, s.frontEnd.uartQ = e :: rest ∧
      s.take = .event e.instr (s.withFrontEnd { s.frontEnd with uartQ := rest })) ∨
    (s.Quiet ∧ s.take = .hold s) := by
  unfold State.take
  cases hr : s.frontEnd.resetReq
  · right
    cases hi : s.frontEnd.i2cQ with
    | cons e rest => left; simp
    | nil =>
      right
      cases hu : s.frontEnd.uartQ with
      | cons e rest => left; simp
      | nil => right; simp [State.Quiet, hr, hi, hu]
  · left; simp

/-- A slot that arrives whole: the step takes from the state with the slot delivered. -/
theorem State.fetch_of_deliverAll {s : State} {slot : List Stimulus} {rest : List (List Stimulus)} {f : FrontEnd}
    (hl : s.cfg.legal = true) (hi : s.input = slot :: rest) (hd : s.frontEnd.deliverAll s.cfg slot = .ok f) :
    s.fetch = ((s.withFrontEnd f).withInput rest).take := by
  simp [State.fetch, State.arrive, hl, hi, hd]

/-- With nothing placed, the step takes from what is pending. -/
theorem State.fetch_of_no_input {s : State} (hl : s.cfg.legal = true) (hi : s.input = []) : s.fetch = s.take := by
  simp [State.fetch, State.arrive, hl, hi]

/-- A step that answers a next state had a legal address and a slot that arrived whole, and then either held the state
or ran the event that was taken. -/
theorem step_next_cases {s t : State} (h : step s = .next t) :
    s.cfg.legal = true ∧ ∃ u, s.arrive = .ok u ∧
      ((u.take = .hold u ∧ t = u) ∨ ∃ i v, u.take = .event i v ∧ exec i v = .next t) := by
  unfold step State.fetch at h
  by_cases hl : s.cfg.legal = true
  · refine ⟨hl, ?_⟩
    cases ha : s.arrive with
    | error r => simp [hl, ha] at h
    | ok u =>
      refine ⟨u, rfl, ?_⟩
      rcases u.take_cases with ⟨-, ht⟩ | ⟨-, e, r, -, ht⟩ | ⟨-, -, e, r, -, ht⟩ | ⟨-, ht⟩
      · exact .inr ⟨_, _, ht, by simpa [hl, ha, ht] using h⟩
      · exact .inr ⟨_, _, ht, by simpa [hl, ha, ht] using h⟩
      · exact .inr ⟨_, _, ht, by simpa [hl, ha, ht] using h⟩
      · exact .inl ⟨ht, by simpa [hl, ha, ht] using h.symm⟩
  · simp [hl] at h

/-- What arrives changes the event sources and the input, and nothing else. -/
theorem State.arrive_ok {s u : State} (h : s.arrive = .ok u) :
    u = { s with frontEnd := u.frontEnd, input := s.input.tail } := by
  unfold State.arrive at h
  split at h
  · rename_i hi
    cases h
    simp [hi]
    rw [← hi]
  · rename_i slot rest hi
    split at h
    · cases h; simp [hi, State.withInput, State.withFrontEnd]
    · cases h

/-! Runs of the machine, one step at a time. -/

theorem core_run_succ_next {n : Nat} {s t : State} (h : step s = .next t) :
    Host.Core.run core (n + 1) s = Host.Core.run core n t := by
  have h' : core.step s = .next t := h
  simp [Host.Core.run, h']

theorem core_run_succ_refused {n : Nat} {s : State} {r : Refusal} (h : step s = .refused r) :
    Host.Core.run core (n + 1) s = .refused r := by
  have h' : core.step s = .refused r := h
  simp [Host.Core.run, h']

end Sys2Proof.Machine
end

