-- ==== Sys2Proof/Laws/PerInstr.lean ====
section
/-! SUPPORT. A law of every event, one lemma for each constructor: the word the encoder writes has the form R57 asks
of an event word. -/

namespace Sys2Proof.Laws.EncodedWordIsWellFormed

open Sys2Proof

/-- The event word of `i` is no reserved word by its fields (R57, R71). -/
def Statement (i : Instr) : Prop := wordWellFormed (encode i) = true

theorem rxByte (b : Byte) : Statement (.rxByte b) := by
  unfold Statement
  revert b
  decide
theorem rxIdle : Statement .rxIdle := rfl
theorem i2cAddrW : Statement .i2cAddrW := rfl
theorem i2cAddrR : Statement .i2cAddrR := rfl
theorem i2cWrByte (d : Byte) : Statement (.i2cWrByte d) := by
  unfold Statement
  revert d
  decide
theorem i2cRdByte : Statement .i2cRdByte := rfl
theorem i2cStop : Statement .i2cStop := rfl
theorem reset : Statement .reset := rfl

end Sys2Proof.Laws.EncodedWordIsWellFormed
end

