-- ==== Sys2Proof/Tests/Slice0.lean ====
section
/-! SUPPORT. Small checks: ill-formed terms that the checks refuse, words written out from the spec's encodings, one
step of each event with the results of 95_test_vectors.md and of the rules' own examples, and for each statement with
hypotheses a state and operands that meet them. -/

namespace Sys2Proof.Tests

open Sys2Proof Sys2Proof.Machine

/-- A field of the next state, if there is one. -/
def after {α : Type} (o : Host.Outcome State Fault Refusal) (f : State → α) : Option α :=
  match o with
  | .next t => some (f t)
  | .fault _ => none
  | .refused _ => none

/-- The refusal, if there is one. -/
def refusal (o : Host.Outcome State Fault Refusal) : Option Refusal :=
  match o with
  | .next _ => none
  | .fault _ => none
  | .refused r => some r

/-- The reset state with another parser. -/
def parsing (p : Parser) : State := State.reset.withParser p

/-- The reset state after a parser at a frame position. -/
def at_ (ps : PState) (c : Fin 2) : State := parsing { Parser.reset with pstate := ps, cnt := c }

/-- The store of the vectors of 95_test_vectors.md, Part 3, with another responder. -/
def responding (r : Responder) : State :=
  (State.reset.withRegs (State.reset.regs.publish 0x012C 0x0064 0x000A)).withResponder r

/-- The reset state under another address. -/
def addressed (a : BitVec 7) : State := State.powerUp { Config.default with i2cAddr := a }

/-- The reset state with these stimuli in the next slot. -/
def arriving (slot : List Stimulus) : State := State.reset.withInput [slot]

/-- The reset state with the I2C front-end in this mode and this stimulus in the next slot. -/
def onBus (m : BusMode) (x : Stimulus) : State :=
  (arriving [x]).withFrontEnd { FrontEnd.reset with bus := m }

/-! The checks refuse what is ill-formed (R71, R129, RV19 and Part 4 of 95_test_vectors.md). -/

theorem smoke_address_too_low : (addressed 0x07).cfg.legal = false := by decide
theorem smoke_address_too_high : (addressed 0x78).cfg.legal = false := by decide
theorem smoke_address_lowest : (addressed 0x08).cfg.legal = true := by decide
theorem smoke_address_highest : (addressed 0x77).cfg.legal = true := by decide
theorem smoke_kind_zero : wordWellFormed 0x0000 = false := by decide
theorem smoke_kind_nine : wordWellFormed 0x9000 = false := by decide
theorem smoke_zero_field : wordWellFormed 0x1F42 = false := by decide
theorem smoke_data_without_operand : wordWellFormed 0x2001 = false := by decide
theorem smoke_word_accepted : wordWellFormed 0x50FF = true := by decide

/-! Words from the spec's encodings: Part 4 of 95_test_vectors.md. -/

theorem word_rx_byte : decodeTableWord 16 0x10FF = some (.rxByte 0xFF) := by decide
theorem word_rx_idle : decodeTableWord 16 0x2000 = some .rxIdle := by decide
theorem word_addr_w : decodeTableWord 16 0x3000 = some .i2cAddrW := by decide
theorem word_addr_r : decodeTableWord 16 0x4000 = some .i2cAddrR := by decide
theorem word_wr_byte : decodeTableWord 16 0x5000 = some (.i2cWrByte 0x00) := by decide
theorem word_rd_byte : decodeTableWord 16 0x6000 = some .i2cRdByte := by decide
theorem word_stop : decodeTableWord 16 0x7000 = some .i2cStop := by decide
theorem word_reset : decodeTableWord 16 0x8000 = some .reset := by decide
theorem word_reserved_operand : decodeTableWord 16 0x5100 = none := by decide
theorem word_reserved_kind : decodeTableWord 16 0xF0FF = none := by decide

/-! One step of each event. -/

/-- R77's example: after reset, `rx 4D`. -/
theorem test_rx_byte_first : after (step (State.reset.withFetchWord 16 0x104D)) (·.parser.window) = some [0x4D] := by
  decide

/-- R83's example: the last byte publishes `0x012C, 0x0064, 0x000A`. -/
theorem test_rx_byte_last :
    after (exec (.rxByte 0x0A) (parsing { Parser.reset with
      pstate := .consumingField3, cnt := 1, stage1 := 0x012C, stage2 := 0x0064 })) (·.regs.measurements) =
      some (0x012C, 0x0064, 0x000A) := by decide

/-- PV11: the burst's end drops the frame and keeps the status. -/
theorem test_rx_idle : after (exec .rxIdle (at_ .consumingField3 1)) (fun t => (t.parser.pstate, t.statusOut)) =
    some (.searching, false) := by decide

/-- R92's example: `aw` with `txq = [0x2C]`. -/
theorem test_addr_w : after (exec .i2cAddrW (responding ⟨true, 1, [0x2C], .read⟩)) (·.responder) =
    some ⟨true, 1, [], .write⟩ := by decide

/-- R93's example: after `select 01`, `ar`. -/
theorem test_addr_r : after (exec .i2cAddrR (responding ⟨true, 1, [], .none⟩)) (·.responder) =
    some ⟨true, 1, [], .read⟩ := by decide

/-- R94's example: `aw`, `wr 02`. -/
theorem test_wr_byte : after (exec (.i2cWrByte 0x02) (responding ⟨false, 0, [], .write⟩)) (·.responder) =
    some ⟨true, 2, [], .write⟩ := by decide

/-- RV14: `wr 01` with `phase = NONE`. -/
theorem test_wr_byte_refused : refusal (step (State.reset.withFetchWord 16 0x5001)) = some .wrongDirection := by
  decide

/-- R101's example: `rd -> 01` leaves `txq = [0x2C]`. -/
theorem test_rd_byte : after (exec .i2cRdByte (responding ⟨true, 1, [], .read⟩))
    (fun t => (t.returned, t.responder.txq)) = some ([0x01], [0x2C]) := by decide

/-- RV7: register `0xFF` reads as the sentinel. -/
theorem test_rd_byte_sentinel : after (exec .i2cRdByte (responding ⟨true, 0xFF, [], .read⟩))
    (fun t => (t.returned, t.responder.txq)) = some ([0x00], [0x00]) := by decide

/-- R104's example: `stop` with `txq = [0x2C]`. -/
theorem test_stop : after (exec .i2cStop (responding ⟨true, 1, [0x2C], .read⟩)) (·.responder) =
    some ⟨true, 1, [], .none⟩ := by decide

/-- R126's example. -/
theorem test_reset : after (exec .reset (responding ⟨true, 3, [], .none⟩))
    (fun t => (t.regs.id, t.regs.measurements, t.responder.selValid)) = some (0x002D, (0, 0, 0), false) := by decide

/-- RV17: register 0 at address `0x77`. -/
theorem test_reset_identity : after (step ((addressed 0x77).withFetchWord 16 0x8000)) (·.regs.id) = some 0x0077 := by
  decide

/-- RV19: a run at `0x07` is refused, whatever its event. -/
theorem test_bad_config : refusal (step ((addressed 0x07).withFetchWord 16 0x2000)) = some .badConfig := by decide

/-- CV1: the I2C event of the cycle samples the value from before the frame's last byte. -/
theorem test_same_cycle : after (step { responding ⟨true, 1, [], .read⟩ with
    parser := { Parser.reset with pstate := .consumingField3, cnt := 1, stage1 := 0x0005 }
    input := [[.uartChar 0x00 true, .word 0x6000]] }) (fun t => (t.returned, t.responder.txq)) =
    some ([0x01], [0x2C]) := by decide

/-- R64: at the default address the address byte is `0x5B` for a read. -/
theorem test_address_byte : after (step (arriving [.i2cStart 0x5B])) (·.responder.phase) = some .read := by decide

/-- RV20: the received word `0x0102` selects register 2. -/
theorem test_received_word : after (step { onBus .writing (.i2cWrite 0x0102) with
    responder := { Responder.reset with phase := .write } }) (·.responder.sel) = some 0x02 := by decide

/-- R62: 32 idle bit-times end a burst, 31 do not. -/
theorem test_burst_end : ((FrontEnd.reset.uartChar 0x42).uartIdle Config.default 32).burst = none ∧
    ((FrontEnd.reset.uartChar 0x42).uartIdle Config.default 31).burst = some 31 := by decide

/-! Witnesses: for each statement with hypotheses, one state and operands that meet them together, and one for each
clause of a statement of several. -/

theorem witness_RxByteFillsEmptyWindow :
    State.reset.parser.pstate = .searching ∧ State.reset.parser.winV = false := by decide

/-- A parser that holds `0x42` in its window. -/
def candidate : State := parsing { Parser.reset with winV := true, win := 0x42 }

theorem witness_RxByteFindsMarker :
    candidate.parser.pstate = .searching ∧ candidate.parser.winV = true ∧ candidate.parser.win = 0x42 := by decide

theorem witness_RxByteDiscardsOldestByte :
    candidate.parser.pstate = .searching ∧ candidate.parser.winV = true ∧
      (candidate.parser.win, (0x42 : Byte)) ≠ (0x42, 0x4D) := by decide

theorem witness_RxByteSkipsReservedByte :
    ((at_ .consumingHeader 0).parser.pstate = .consumingHeader ∧ (at_ .consumingHeader 0).parser.cnt = 0) ∧
      (at_ .consumingHeader 1).parser.pstate = .consumingHeader ∧ (at_ .consumingHeader 1).parser.cnt = 1 := by decide

theorem witness_RxByteTakesHighByte :
    ((at_ .consumingField1 0).parser.pstate = .consumingField1 ∧ (at_ .consumingField1 0).parser.cnt = 0) ∧
      ((at_ .consumingField2 0).parser.pstate = .consumingField2 ∧ (at_ .consumingField2 0).parser.cnt = 0) ∧
      (at_ .consumingField3 0).parser.pstate = .consumingField3 ∧ (at_ .consumingField3 0).parser.cnt = 0 := by decide

theorem witness_RxByteStagesField :
    ((at_ .consumingField1 1).parser.pstate = .consumingField1 ∧ (at_ .consumingField1 1).parser.cnt = 1) ∧
      (at_ .consumingField2 1).parser.pstate = .consumingField2 ∧ (at_ .consumingField2 1).parser.cnt = 1 := by decide

theorem witness_RxByteCompletesFrame :
    (at_ .consumingField3 1).parser.pstate = .consumingField3 ∧ (at_ .consumingField3 1).parser.cnt = 1 := by decide

theorem witness_RxIdleDropsPartialFrame : ∃ t, exec .rxIdle (at_ .consumingField2 1) = .next t := ⟨_, rfl⟩

theorem witness_ParserNeverStalls : fromUart (.rxByte 0xFF) = true ∧ fromUart .rxIdle = true := by decide

/-- Both clauses: one byte before the last offset, and the last offset. -/
theorem witness_RxByteAdvancesFrameOffset :
    ((at_ .consumingField3 0).parser.bytesConsumed + 1 < Config.frameLen ∧
      ∃ t, exec (.rxByte 0x42) (at_ .consumingField3 0) = .next t) ∧
    ((at_ .consumingField3 1).parser.bytesConsumed + 1 = Config.frameLen ∧
      ∃ t, exec (.rxByte 0x4D) (at_ .consumingField3 1) = .next t) := ⟨⟨by decide, _, rfl⟩, by decide, _, rfl⟩

theorem witness_EightBytesReachSearching : ([0, 0, 0, 0, 0, 0, 0, 0] : List Byte).length = 8 := by decide

/-- The garbage of W8, from an empty window and from one that holds `0x42`. -/
theorem witness_FrameAfterGarbageIsPublished :
    State.reset.parser.pstate = .searching ∧ candidate.parser.pstate = .searching ∧
      hasMarker (State.reset.parser.window ++ [0x13, 0xFF, 0x4D, 0x42, 0x00] ++ [0x42]) = false ∧
      hasMarker (candidate.parser.window ++ [] ++ [0x42]) = false := by decide

theorem witness_ScratchRegistersAreUnobservable :
    (at_ .consumingHeader 1).EqualButScratch (parsing { Parser.reset with
        pstate := .consumingHeader, cnt := 1, hi := 0xFF, stage1 := 0x012C, stage2 := 0x0064 }) ∧
      (at_ .consumingHeader 1).parser.pstate = .consumingHeader := by decide

/-- The three cases: RESET, the completion of a frame, and neither. -/
theorem witness_StatusChangesOnlyAtCompletion :
    (∃ t, exec .reset State.reset = .next t) ∧
      ((publication (.rxByte 0) (at_ .consumingField3 1)).isSome = true ∧
        ∃ t, exec (.rxByte 0) (at_ .consumingField3 1) = .next t) ∧
      ((publication .rxIdle State.reset).isSome = false ∧ ∃ t, exec .rxIdle State.reset = .next t) :=
  ⟨⟨_, rfl⟩, ⟨by decide, _, rfl⟩, by decide, _, rfl⟩

theorem witness_StatusLevelIsFrameParity :
    Instr.reset ∉ [Instr.rxByte 0, .rxIdle] ∧ (at_ .consumingField3 1).statusOut = false ∧
      ∃ t, runEvents [.rxByte 0, .rxIdle] (at_ .consumingField3 1) = .next t := ⟨by decide, by decide, _, rfl⟩

theorem witness_RegisterSelectStoresIndex :
    (responding ⟨false, 0, [], .write⟩).responder.phase = .write ∧ State.reset.responder.phase ≠ .write := by decide

/-- The three clauses: an empty queue, a filled one, another direction. -/
theorem witness_ReadByteServesQueueOrSample :
    ((responding ⟨true, 1, [], .read⟩).responder.phase = .read ∧ (responding ⟨true, 1, [], .read⟩).responder.txq = []) ∧
      (responding ⟨true, 1, [0x2C], .read⟩).responder.txq = 0x2C :: [] ∧
      (responding ⟨true, 1, [], .write⟩).responder.phase ≠ .read := by decide

theorem witness_RegisterMapDispatch :
    Config.nreg ≤ (0x04 : Byte).toNat ∧ Config.nreg ≤ (0xFF : Byte).toNat := by decide

theorem witness_ReadBeforeSelectReturnsSentinel :
    (responding ⟨false, 0, [], .read⟩).responder.selValid = false ∧
      (responding ⟨false, 0, [], .read⟩).responder.phase = .read ∧
      (responding ⟨false, 0, [], .read⟩).responder.txq = [] := by decide

theorem witness_ReadPairComesFromOneSample :
    (responding ⟨true, 3, [], .read⟩).responder.phase = .read ∧ (responding ⟨true, 3, [], .read⟩).responder.txq = [] ∧
      ∀ i ∈ [Instr.rxByte 0x42, .rxIdle], fromUart i = true := by decide

theorem witness_StreamingRepeatsRegister :
    (responding ⟨true, 1, [], .read⟩).responder.phase = .read ∧
      (responding ⟨true, 1, [], .read⟩).responder.txq = [] := by decide

theorem witness_SelectionPersists :
    (∀ i ∈ [Instr.i2cStop, .i2cAddrR], i ≠ .reset ∧ ∀ d, i ≠ .i2cWrByte d) ∧
      ∃ t, runEvents [.i2cStop, .i2cAddrR] (responding ⟨true, 1, [], .read⟩) = .next t := ⟨by simp, _, rfl⟩

theorem witness_ReadRequestIsTwoBytes :
    ((responding ⟨true, 1, [], .read⟩).responder.txq = [] ∧
      ∃ t, exec .i2cRdByte (responding ⟨true, 1, [], .read⟩) = .next t) ∧
    ((responding ⟨true, 1, [0x2C], .read⟩).responder.txq ≠ [] ∧
      ∃ t, exec .i2cRdByte (responding ⟨true, 1, [0x2C], .read⟩) = .next t ∧
        t.responder.txq ≠ (responding ⟨true, 1, [0x2C], .read⟩).responder.txq) :=
  ⟨⟨rfl, _, rfl⟩, by decide, _, rfl, by decide⟩

theorem witness_StoreWrittenOnlyByPublish :
    Instr.rxByte 0x0A ≠ .reset ∧ ∃ t, exec (.rxByte 0x0A) (at_ .consumingField3 1) = .next t := ⟨by decide, _, rfl⟩

theorem witness_MeasurementsAreLastPublication :
    Instr.reset ∉ [Instr.rxByte 0x0A, .i2cAddrR] ∧
      ∃ t, runEvents [.rxByte 0x0A, .i2cAddrR] (at_ .consumingField3 1) = .next t := ⟨by decide, _, rfl⟩

theorem witness_EachElementHasOneWriter :
    (fromUart (.rxByte 0) = true ∧ ∃ t, exec (.rxByte 0) State.reset = .next t) ∧
      (fromI2c .i2cAddrR = true ∧ ∃ t, exec .i2cAddrR State.reset = .next t) ∧
      ∃ t, exec .reset State.reset = .next t := ⟨⟨rfl, _, rfl⟩, ⟨rfl, _, rfl⟩, _, rfl⟩

theorem witness_ResetSetsEveryElement :
    (addressed 0x77).cfg.legal = true ∧ (addressed 0x78).cfg.legal = false ∧
      (onBus .reading .i2cRead).cfg.legal = true ∧ (onBus .reading .i2cRead).frontEnd.bus = .reading := by decide

theorem witness_PowerUpIsReset : (addressed 0x08).cfg.legal = true := by decide

theorem witness_IllegalAddressIsRefused :
    (addressed 0x07).cfg.i2cAddr.toNat < 0x08 ∧ 0x77 < (addressed 0x78).cfg.i2cAddr.toNat ∧
      0x08 ≤ (addressed 0x08).cfg.i2cAddr.toNat ∧ (addressed 0x77).cfg.i2cAddr.toNat ≤ 0x77 := by decide

/-- A reserved word, and a step at which it arrives. -/
theorem witness_ReservedWordsAreRefused :
    decode 0x9000 = .error (.reservedEvent 0x9000) ∧ (arriving [.word 0x9000]).cfg.legal = true ∧
      (arriving [.word 0x9000]).input = [.word 0x9000] :: [] := ⟨rfl, by decide, rfl⟩

theorem witness_EncodeDecodeRoundTrip : decode 0x50FF = .ok (.i2cWrByte 0xFF) := rfl

theorem witness_StepRunsTheDecodedEvent :
    (arriving [.word 0x1042]).cfg.legal = true ∧ (arriving [.word 0x1042]).Quiet ∧
      (arriving [.word 0x1042]).input = [.word 0x1042] :: [] ∧ decode 0x1042 = .ok (.rxByte 0x42) :=
  ⟨by decide, by decide, rfl, rfl⟩

theorem witness_StepRefusesReservedWord :
    State.reset.cfg.legal = true ∧ (∀ e', Stimulus.word e' ∈ [Stimulus.word 0x1000] → wordWellFormed e' = true) ∧
      (arriving [.word 0x1000, .word 0x0000]).input = ([.word 0x1000] ++ .word 0x0000 :: []) :: [] ∧
      wordWellFormed 0x0000 = false := ⟨by decide, by simp [wordWellFormed]; decide, rfl, by decide⟩

/-- The four clauses: RESET over an I2C event over a UART event, and nothing pending. -/
theorem witness_StepTakesPendingByPriority :
    State.reset.cfg.legal = true ∧ State.reset.input = [] ∧ State.reset.Quiet ∧
      (FrontEnd.reset.pendReset.pendI2c .stop).resetReq = true ∧
      ((FrontEnd.reset.pendI2c .stop).pendUart .rxIdle).resetReq = false ∧
      ((FrontEnd.reset.pendI2c .stop).pendUart .rxIdle).i2cQ = .stop :: [] ∧
      (FrontEnd.reset.pendUart .rxIdle).i2cQ = [] ∧ (FrontEnd.reset.pendUart .rxIdle).uartQ = .rxIdle :: [] := by
  decide

theorem witness_CoincidentI2cEventIsTakenFirst :
    State.reset.cfg.legal = true ∧ State.reset.Quiet ∧ decode 0x1042 = .ok (UartEvent.rxByte 0x42).instr ∧
      decode 0x6000 = .ok .i2cRdByte ∧ fromI2c .i2cRdByte = true ∧
      (arriving [.word 0x1042, .word 0x6000]).input = [.word 0x1042, .word 0x6000] :: [] ∧
      (arriving [.word 0x6000, .word 0x1042]).input = [.word 0x6000, .word 0x1042] :: [] :=
  ⟨by decide, by decide, rfl, rfl, rfl, rfl, rfl⟩

theorem witness_ResetDiscardsPendingEvents :
    State.reset.cfg.legal = true ∧ (arriving [.uartChar 0x42 true, .resetInput]).input =
        [.uartChar 0x42 true, .resetInput] :: [] ∧
      Stimulus.resetInput ∈ [Stimulus.uartChar 0x42 true, .resetInput] ∧
      (∀ e, Stimulus.word e ∈ [Stimulus.uartChar 0x42 true, .resetInput] → wordWellFormed e = true) := by
  refine ⟨by decide, rfl, by decide, by simp⟩

/-- The other way to assert RESET: its event word, behind an event that it discards. -/
theorem witness_ResetDiscardsPendingEvents_word :
    State.reset.cfg.legal = true ∧ (arriving [.uartChar 0x42 true, .word 0x8000]).input =
        [.uartChar 0x42 true, .word 0x8000] :: [] ∧
      Stimulus.word 0x8000 ∈ [Stimulus.uartChar 0x42 true, .word 0x8000] ∧
      (∀ e, Stimulus.word e ∈ [Stimulus.uartChar 0x42 true, .word 0x8000] → wordWellFormed e = true) := by
  refine ⟨by decide, rfl, by decide, fun e he => ?_⟩
  obtain rfl : e = 0x8000 := by simpa using he
  decide

theorem witness_StepsOnPlacedWordsAreTheEventRun : State.reset.cfg.legal = true ∧ State.reset.Quiet := by decide

/-- A state with two events pending and nothing more to arrive. -/
def twoPending : State :=
  State.reset.withFrontEnd ((FrontEnd.reset.pendI2c .addrR).pendUart (.rxByte 0x42))

theorem witness_PendingEventsAreAllTaken : twoPending.WithinContract ∧ twoPending.input = [] := by decide

theorem witness_OwnAddressIsAnswered :
    State.reset.cfg.legal = true ∧ State.reset.Quiet ∧
      (arriving [.i2cStart 0x5A]).input = [.i2cStart (State.reset.cfg.i2cAddr ++ (0 : BitVec 1))] :: [] ∧
      (arriving [.i2cStart 0x5B]).input = [.i2cStart (State.reset.cfg.i2cAddr ++ (1 : BitVec 1))] :: [] := by decide

/-- Both clauses: an address beside the block's own, and the bounds of the reserved ranges. -/
theorem witness_OtherAddressIsIgnored :
    (arriving [.i2cStart 0x5C]).cfg.legal = true ∧ (arriving [.i2cStart 0x5C]).Quiet ∧
      (arriving [.i2cStart 0x5C]).input = [.i2cStart 0x5C] :: [] ∧
      (0x5C : Byte).toNat / 2 ≠ (arriving [.i2cStart 0x5C]).cfg.i2cAddr.toNat ∧
      (0x0F : Byte).toNat < 0x10 ∧ 0xF0 ≤ (0xF0 : Byte).toNat := by decide

theorem witness_AddressedTransferDeliversItsEvents :
    (onBus .writing (.i2cWrite 0x0102)).cfg.legal = true ∧ (onBus .writing (.i2cWrite 0x0102)).Quiet ∧
      (onBus .writing (.i2cWrite 0x0102)).frontEnd.bus = .writing ∧
      (onBus .writing (.i2cWrite 0x0102)).input = [.i2cWrite 0x0102] :: [] ∧
      (onBus .reading .i2cRead).frontEnd.bus = .reading ∧ (onBus .reading .i2cRead).input = [.i2cRead] :: [] ∧
      (onBus .reading .i2cStop).frontEnd.bus = .reading ∧ (onBus .reading .i2cStop).input = [.i2cStop] :: [] ∧
      (onBus .reading (.i2cMasterAck true)).input = [.i2cMasterAck true] :: [] := by decide

theorem witness_ForeignTransferIsUnseen :
    (onBus .ignoring .i2cRead).cfg.legal = true ∧ (onBus .ignoring .i2cRead).Quiet ∧
      (onBus .ignoring .i2cRead).frontEnd.bus = .ignoring ∧ (onBus .ignoring .i2cRead).input = [.i2cRead] :: [] ∧
      (onBus .ignoring (.i2cWrite 1)).input = [.i2cWrite 1] :: [] ∧
      (onBus .ignoring .i2cStop).input = [.i2cStop] :: [] := by decide

/-- A state with a burst open for 31 idle bit-times and one more arriving. -/
def burstEnding (bits : Nat) : State :=
  (arriving [.uartIdle bits]).withFrontEnd { FrontEnd.reset with burst := some 31 }

theorem witness_UartLineDeliversBytesAndBurstEnd :
    (arriving [.uartChar 0x42 false]).cfg.legal = true ∧ (arriving [.uartChar 0x42 false]).Quiet ∧
      (arriving [.uartChar 0x42 false]).input = [.uartChar 0x42 false] :: [] ∧
      ((burstEnding 1).Quiet ∧ (burstEnding 1).frontEnd.burst = some 31 ∧ (burstEnding 1).cfg.rxIdleBits ≤ 31 + 1) ∧
      ((burstEnding 0).frontEnd.burst = some 31 ∧ 31 + 0 < (burstEnding 0).cfg.rxIdleBits) ∧
      (arriving [.uartIdle 32]).frontEnd.burst = none ∧ (arriving [.uartIdle 32]).input = [.uartIdle 32] :: [] := by
  decide

/-- A front-end in a read transfer whose bytes are still pending, and more activity to come. -/
theorem witness_WireActivityIsNeverRefused :
    ((twoPending.withFrontEnd { twoPending.frontEnd with bus := .reading }).withInput
      [[.i2cRead, .uartIdle 40], [.i2cStop, .resetInput]]).WithinContract := by decide

theorem witness_ResetIsWithinContract : (addressed 0x08).cfg.legal = true := by decide

theorem witness_StepKeepsBlockInvariant :
    (responding ⟨true, 1, [0x2C], .read⟩).Inv ∧ ∃ t, step (responding ⟨true, 1, [0x2C], .read⟩) = .next t :=
  ⟨by decide, _, rfl⟩

theorem witness_IdentityIsFixedForARun :
    (∃ t, step (arriving [.resetInput]) = .next t) ∧
      (arriving [.resetInput]).regs.id = (arriving [.resetInput]).cfg.i2cAddr.zeroExtend 16 := ⟨⟨_, rfl⟩, by decide⟩

theorem witness_OneByteReturnedPerReadEvent :
    ∃ t, runEvents [.i2cRdByte, .rxIdle] (responding ⟨true, 1, [], .read⟩) = .next t := ⟨_, rfl⟩

end Sys2Proof.Tests
end

section
/-! The returned bytes (R8): what one event appends to them, and what a run does. -/

namespace Sys2Proof.Machine

/-- I2C_RD_BYTE appends the next byte to the returned bytes (R101); every other event, RESET too, keeps them. -/
theorem exec_returned {i : Instr} {s t : State} (h : exec i s = .next t) :
    (i = .i2cRdByte → t.returned = s.returned ++ [s.nextByte.1]) ∧
      (i ≠ .i2cRdByte → t.returned = s.returned) := by
  rcases exec_next_cases h with ⟨b, rfl, -, -, rfl⟩ | ⟨b, p, rfl, -, -, rfl⟩ | ⟨rfl, rfl⟩ | ⟨rfl, rfl⟩ | ⟨rfl, rfl⟩ |
    ⟨d, rfl, -, rfl⟩ | ⟨rfl, -, rfl⟩ | ⟨rfl, rfl⟩ | ⟨rfl, -, rfl⟩ <;> simp

/-- Settles O57, by induction on the run: each event appends one byte if it is I2C_RD_BYTE, else none. -/
theorem oneByteReturnedPerReadEvent : Obligations.OneByteReturnedPerReadEvent := by
  intro is s t h
  induction is generalizing s with
  | nil =>
    obtain rfl : s = t := by simpa using h
    exact ⟨[], by simp⟩
  | cons i is ih =>
    obtain ⟨u, hu, hrun⟩ := runEvents_cons_cases h
    obtain ⟨bs, ht, hlen⟩ := ih u hrun
    obtain ⟨hread, hkeep⟩ := exec_returned hu
    by_cases hi : i = .i2cRdByte
    · exact ⟨s.nextByte.1 :: bs, by simp [ht, hread hi], by simp [hi, hlen]⟩
    · exact ⟨bs, by rw [ht, hkeep hi], by simp [hi, hlen]⟩

end Sys2Proof.Machine
end

section
/-! RX_BYTE, case by case, and the frame offset it moves (R35, R76). -/

namespace Sys2Proof.Machine

/-- A reserved byte is the first of the two, or the second, which leaves the header (R80). -/
theorem Parser.skipReserved_cases (p : Parser) :
    (p.cnt = 0 ∧ p.skipReserved = { p with cnt := 1 }) ∨
    (p.cnt = 1 ∧ p.skipReserved = { p with cnt := 0, pstate := .consumingField1 }) := by
  rcases p.cnt_cases with h | h
  · exact .inl ⟨h, by simp [Parser.skipReserved, h]⟩
  · exact .inr ⟨h, by simp [Parser.skipReserved, h]⟩

/-- The next state of RX_BYTE, for each case of R76. -/
theorem execRxByte_next_cases {s t : State} {b : Byte} (h : execRxByte b s = .next t) :
    (s.parser.pstate = .searching ∧ t = s.withParser (s.parser.search b)) ∨
    (s.parser.pstate = .consumingHeader ∧ t = s.withParser s.parser.skipReserved) ∨
    (s.parser.pstate ≠ .searching ∧ s.parser.pstate ≠ .consumingHeader ∧ s.parser.cnt = 0 ∧
      t = s.withParser (s.parser.takeHigh b)) ∨
    (s.parser.pstate = .consumingField1 ∧ s.parser.cnt = 1 ∧ t = s.withParser (s.parser.finishField1 b)) ∨
    (s.parser.pstate = .consumingField2 ∧ s.parser.cnt = 1 ∧ t = s.withParser (s.parser.finishField2 b)) ∨
    (s.parser.pstate = .consumingField3 ∧ s.parser.cnt = 1 ∧ t = s.completeFrame b) := by
  by_cases hs : s.parser.pstate = .searching
  · rw [execRxByte_searching s b hs] at h
    cases h
    exact .inl ⟨hs, rfl⟩
  by_cases hh : s.parser.pstate = .consumingHeader
  · rw [execRxByte_header s b hh] at h
    cases h
    exact .inr (.inl ⟨hh, rfl⟩)
  rcases s.parser.cnt_cases with hc | hc
  · rw [execRxByte_high s b hs hh hc] at h
    cases h
    exact .inr (.inr (.inl ⟨hs, hh, hc, rfl⟩))
  cases hp : s.parser.pstate with
  | searching => exact absurd hp hs
  | consumingHeader => exact absurd hp hh
  | consumingField1 =>
    rw [execRxByte_low1 s b hp hc] at h
    cases h
    exact .inr (.inr (.inr (.inl ⟨rfl, hc, rfl⟩)))
  | consumingField2 =>
    rw [execRxByte_low2 s b hp hc] at h
    cases h
    exact .inr (.inr (.inr (.inr (.inl ⟨rfl, hc, rfl⟩))))
  | consumingField3 =>
    rw [execRxByte_last s b hp hc] at h
    cases h
    exact .inr (.inr (.inr (.inr (.inr ⟨rfl, hc, rfl⟩))))

/-- R35 at the Parser: RX_BYTE outside Searching consumes the frame's next byte, and the last one ends the frame. -/
theorem execRxByte_bytesConsumed {s t : State} {b : Byte} (hs : s.parser.pstate ≠ .searching)
    (h : execRxByte b s = .next t) :
    (t.parser.bytesConsumed = s.parser.bytesConsumed + 1 ∧ s.parser.bytesConsumed + 1 < Config.frameLen ∧
      t.parser.pstate ≠ .searching ∧ t.regs = s.regs) ∨
    (s.parser.bytesConsumed + 1 = Config.frameLen ∧ t.parser.bytesConsumed = 0 ∧ t.parser.pstate = .searching) := by
  rcases execRxByte_next_cases h with ⟨hp, -⟩ | ⟨hp, rfl⟩ | ⟨-, hh, hc, rfl⟩ | ⟨hp, hc, rfl⟩ | ⟨hp, hc, rfl⟩ |
    ⟨hp, hc, rfl⟩
  · exact absurd hp hs
  · left
    rcases s.parser.skipReserved_cases with ⟨hc, hk⟩ | ⟨hc, hk⟩ <;>
      simp [Parser.bytesConsumed, Config.frameLen, hp, hc, hk]
  · left
    cases hp : s.parser.pstate <;> simp_all [Parser.bytesConsumed, Config.frameLen]
  · left; simp [Parser.bytesConsumed, Config.frameLen, hp, hc]
  · left; simp [Parser.bytesConsumed, Config.frameLen, hp, hc]
  · right; simp [Parser.bytesConsumed, Config.frameLen, hp, hc]

/-- Settles O10: the byte either moves the offset on or is the frame's last. -/
theorem rxByteAdvancesFrameOffset : Obligations.RxByteAdvancesFrameOffset := by
  intro s t b hs h
  rcases execRxByte_bytesConsumed hs h with ⟨hn, hlt, hp, hr⟩ | ⟨hl, hz, hp⟩
  · exact ⟨fun _ => ⟨hn, hp, hr⟩, fun he => absurd he hlt.ne, hlt.le⟩
  · exact ⟨fun hlt => absurd hl hlt.ne, fun _ => ⟨hz, hp⟩, hl.le⟩

end Sys2Proof.Machine
end

section
/-! Who writes what (R36, R47, R48): each element's one writer, and the store's two. -/

namespace Sys2Proof.Machine

/-- Settles O30: every next state of `exec_next_cases` is written by the unit its event is wired to. -/
theorem eachElementHasOneWriter : Obligations.EachElementHasOneWriter := by
  intro i s t h
  rcases exec_next_cases h with ⟨b, rfl, -, -, rfl⟩ | ⟨b, p, rfl, -, -, rfl⟩ | ⟨rfl, rfl⟩ | ⟨rfl, rfl⟩ | ⟨rfl, rfl⟩ |
    ⟨d, rfl, -, rfl⟩ | ⟨rfl, -, rfl⟩ | ⟨rfl, rfl⟩ | ⟨rfl, -, rfl⟩
  iterate 3 exact ⟨fun _ => rfl, nofun, nofun⟩
  iterate 5 exact ⟨nofun, fun _ => rfl, nofun⟩
  exact ⟨nofun, nofun, fun _ => rfl⟩

/-- What RX_BYTE publishes at the last byte of a frame (R83). -/
theorem publication_rxByte_last {s : State} {b : Byte} (h3 : s.parser.pstate = .consumingField3)
    (h1 : s.parser.cnt = 1) :
    publication (.rxByte b) s = some (s.parser.stage1, s.parser.stage2, assemble s.parser.hi b) := by
  simp [publication, h3, h1]

theorem publication_rxByte_other {s : State} {b : Byte}
    (h : ¬(s.parser.pstate = .consumingField3 ∧ s.parser.cnt = 1)) : publication (.rxByte b) s = none := by
  simp [publication, h]

/-- Settles O28: completing a frame publishes its three values; no other event but RESET writes the store. -/
theorem storeWrittenOnlyByPublish : Obligations.StoreWrittenOnlyByPublish := by
  intro i s t h hr
  rcases exec_next_cases h with ⟨b, rfl, h3, h1, rfl⟩ | ⟨b, p, rfl, hn, -, rfl⟩ | ⟨rfl, rfl⟩ | ⟨rfl, rfl⟩ |
    ⟨rfl, rfl⟩ | ⟨d, rfl, -, rfl⟩ | ⟨rfl, -, rfl⟩ | ⟨rfl, rfl⟩ | ⟨rfl, -, rfl⟩
  · exact ⟨rfl, by rw [publication_rxByte_last h3 h1]; rfl⟩
  · exact ⟨rfl, by rw [publication_rxByte_other hn]; rfl⟩
  iterate 6 exact ⟨rfl, rfl⟩
  exact absurd rfl hr

theorem publications_cons_next {i : Instr} {is : List Instr} {s t : State} (h : exec i s = .next t) :
    publications (i :: is) s = (publication i s).toList ++ publications is t := by
  simp [publications, h]

/-- Settles O29, by induction on the run: what its first event leaves is what the rest begins with. -/
theorem measurementsAreLastPublication : Obligations.MeasurementsAreLastPublication := by
  intro is s t hr h
  induction is generalizing s with
  | nil =>
    obtain rfl : s = t := by simpa using h
    rfl
  | cons i is ih =>
    obtain ⟨hi, his⟩ := List.ne_and_not_mem_of_not_mem_cons hr
    obtain ⟨u, hu, hrun⟩ := runEvents_cons_cases h
    obtain ⟨-, hfirst⟩ := storeWrittenOnlyByPublish i s u hu hi.symm
    rw [ih u his hrun, hfirst, publications_cons_next hu, List.getLast?_append]
    cases (publications is u).getLast? <;> cases publication i s <;> rfl

end Sys2Proof.Machine
end

section
/-! The block's invariant (R18, R19, R23, R31), and what a step keeps. -/

namespace Sys2Proof.Machine

/-- `REG[0]` is written by RESET alone, with the identity (R23). -/
theorem exec_regs_id {i : Instr} {s t : State} (h : exec i s = .next t) :
    t.regs.id = if i = .reset then identity s.cfg else s.regs.id := by
  rcases exec_next_cases h with ⟨b, rfl, -, -, rfl⟩ | ⟨b, p, rfl, -, -, rfl⟩ | ⟨rfl, rfl⟩ | ⟨rfl, rfl⟩ | ⟨rfl, rfl⟩ |
    ⟨d, rfl, -, rfl⟩ | ⟨rfl, -, rfl⟩ | ⟨rfl, rfl⟩ | ⟨rfl, -, rfl⟩ <;> rfl

theorem Parser.inv_of_searching {p : Parser} (hs : p.pstate = .searching) (hc : p.cnt = 0) : p.Inv :=
  ⟨fun _ => hc, fun hn => absurd hs hn⟩

theorem Parser.inv_of_not_searching {p : Parser} (hs : p.pstate ≠ .searching) (hw : p.winV = false) : p.Inv :=
  ⟨fun he => absurd he hs, fun _ => hw⟩

/-- Finding the marker empties the window as it leaves Searching (R78). -/
theorem Parser.search_inv {p : Parser} (hs : p.pstate = .searching) (hc : p.cnt = 0) (b : Byte) :
    (p.search b).Inv := by
  rcases p.search_cases b with ⟨-, h⟩ | ⟨-, -, h⟩ | ⟨-, -, h⟩ <;> rw [h]
  · exact Parser.inv_of_searching hs hc
  · exact Parser.inv_of_not_searching nofun rfl
  · exact Parser.inv_of_searching hs hc

theorem Parser.skipReserved_inv {p : Parser} (hs : p.pstate = .consumingHeader) (hw : p.winV = false) :
    p.skipReserved.Inv := by
  rcases p.skipReserved_cases with ⟨-, h⟩ | ⟨-, h⟩ <;> rw [h]
  · exact Parser.inv_of_not_searching (by simp [hs]) hw
  · exact Parser.inv_of_not_searching nofun hw

theorem execRxByte_parserInv {s t : State} {b : Byte} (hp : s.parser.Inv) (h : execRxByte b s = .next t) :
    t.parser.Inv := by
  obtain ⟨hcnt, hwin⟩ := hp
  rcases execRxByte_next_cases h with ⟨hs, rfl⟩ | ⟨hs, rfl⟩ | ⟨hs, -, -, rfl⟩ | ⟨hs, -, rfl⟩ | ⟨hs, -, rfl⟩ |
    ⟨-, -, rfl⟩
  · exact Parser.search_inv hs (hcnt hs) b
  · exact Parser.skipReserved_inv hs (hwin (by simp [hs]))
  · exact Parser.inv_of_not_searching hs (hwin hs)
  · exact Parser.inv_of_not_searching nofun (hwin (by simp [hs]))
  · exact Parser.inv_of_not_searching nofun (hwin (by simp [hs]))
  · exact Parser.inv_of_searching rfl rfl

theorem exec_parserInv {i : Instr} {s t : State} (hp : s.parser.Inv) (h : exec i s = .next t) : t.parser.Inv := by
  rcases exec_next_cases h with ⟨b, rfl, -⟩ | ⟨b, p, rfl, -⟩ | ⟨-, rfl⟩ | ⟨-, rfl⟩ | ⟨-, rfl⟩ | ⟨d, -, -, rfl⟩ |
    ⟨-, -, rfl⟩ | ⟨-, rfl⟩ | ⟨-, -, rfl⟩
  iterate 2 exact execRxByte_parserInv hp h
  · exact Parser.inv_of_searching rfl rfl
  iterate 5 exact hp
  · exact Parser.inv_of_searching rfl rfl

/-- I2C_RD_BYTE leaves the tail of the queue it found, or the second of the two bytes it filled it with (R102). -/
theorem State.nextByte_queue_length {s : State} (h : s.responder.txq.length ≤ Config.txqDepth) :
    s.nextByte.2.length ≤ Config.txqDepth := by
  rcases s.nextByte_cases with ⟨-, hn⟩ | ⟨b, rest, hq, hn⟩
  · simp [hn, Config.txqDepth]
  · rw [hn]
    rw [hq, List.length_cons] at h
    exact Nat.le_of_succ_le h

theorem Responder.inv_of_empty {r : Responder} (h : r.txq = []) : r.Inv :=
  ⟨by simp [h], fun hne => absurd h hne⟩

theorem exec_responderInv {i : Instr} {s t : State} (hr : s.responder.Inv) (h : exec i s = .next t) :
    t.responder.Inv := by
  have ⟨hlen, _⟩ := hr
  rcases exec_next_cases h with ⟨b, -, -, -, rfl⟩ | ⟨b, p, -, -, -, rfl⟩ | ⟨-, rfl⟩ | ⟨-, rfl⟩ | ⟨-, rfl⟩ |
    ⟨d, -, -, rfl⟩ | ⟨-, hphase, rfl⟩ | ⟨-, rfl⟩ | ⟨-, -, rfl⟩
  iterate 3 exact hr
  iterate 2 exact Responder.inv_of_empty rfl
  · exact hr
  · exact ⟨State.nextByte_queue_length hlen, fun _ => hphase⟩
  iterate 2 exact Responder.inv_of_empty rfl

/-- Every event keeps the block's invariant, unit by unit. -/
theorem exec_inv {i : Instr} {s t : State} (hs : s.Inv) (h : exec i s = .next t) : t.Inv := by
  obtain ⟨hid, hp, hr⟩ := hs
  refine ⟨?_, exec_parserInv hp h, exec_responderInv hr h⟩
  rw [exec_regs_id h, exec_cfg h, hid, ite_self]

/-- Taking an event clears it at its front-end and writes nothing else (R105). -/
theorem State.take_event {u v : State} {i : Instr} (h : u.take = .event i v) : v = u.withFrontEnd v.frontEnd := by
  rcases u.take_cases with ⟨-, ht⟩ | ⟨-, e, rest, -, ht⟩ | ⟨-, -, e, rest, -, ht⟩ | ⟨-, ht⟩ <;>
    rw [ht] at h <;> cases h <;> rfl

/-- A step holds the state or runs one event, from a state that differs from its own in the event sources and the
input alone. -/
theorem step_next_exec {s t : State} (h : step s = .next t) :
    ∃ v, v = { s with frontEnd := v.frontEnd, input := v.input } ∧ (t = v ∨ ∃ i, exec i v = .next t) := by
  obtain ⟨-, u, ha, hu⟩ := step_next_cases h
  have hframe := State.arrive_ok ha
  rcases hu with ⟨-, rfl⟩ | ⟨i, v, ht, hv⟩
  · exact ⟨t, by rw [hframe], .inl rfl⟩
  · exact ⟨v, by rw [State.take_event ht, hframe]; rfl, .inr ⟨i, hv⟩⟩

/-- Settles O54: the invariant speaks of neither the event sources nor the input, and every event keeps it. -/
theorem stepKeepsBlockInvariant : Obligations.StepKeepsBlockInvariant := by
  intro s t hs h
  obtain ⟨v, hframe, hv⟩ := step_next_exec h
  have hinv : v.Inv := by rw [hframe]; exact hs
  rcases hv with rfl | ⟨i, hi⟩
  · exact hinv
  · exact exec_inv hinv hi

/-- Settles O56: no event writes the parameters, and RESET writes `REG[0]` with the identity. -/
theorem identityIsFixedForARun : Obligations.IdentityIsFixedForARun := by
  intro s t h
  obtain ⟨v, hframe, hv⟩ := step_next_exec h
  have hcfg : v.cfg = s.cfg := by rw [hframe]
  have hregs : v.regs = s.regs := by rw [hframe]
  rcases hv with rfl | ⟨i, hi⟩
  · exact ⟨hcfg, fun _ => by rw [hregs]⟩
  · refine ⟨(exec_cfg hi).trans hcfg, fun hid => ?_⟩
    have hident : identity s.cfg = s.regs.id := hid.symm
    rw [exec_regs_id hi, hcfg, hregs, hident, ite_self]

/-- Settles O33: the reset values of R34, as the model writes them. -/
theorem resetStateValues : Obligations.ResetStateValues :=
  ⟨fun _ => ⟨rfl, rfl, rfl⟩, rfl, rfl⟩

/-- The invariant at power-up. -/
theorem State.powerUp_inv (c : Config) : (State.powerUp c).Inv :=
  ⟨rfl, Parser.inv_of_searching rfl rfl, Responder.inv_of_empty rfl⟩

/-- Settles O55: reset is power-up at the default parameters. -/
theorem resetMeetsBlockInvariant : Obligations.ResetMeetsBlockInvariant :=
  ⟨State.powerUp_inv Config.default, State.powerUp_inv⟩

end Sys2Proof.Machine
end

section
/-! The scratch registers (R37): each is read only after the frame in progress has written it, so two states that
agree on the registers already written answer alike. -/

namespace Sys2Proof.Machine

/-- The parser with other contents of `hi`, `stage1` and `stage2`. -/
def Parser.withScratch (p : Parser) (h : Byte) (v1 v2 : Word) : Parser :=
  { p with hi := h, stage1 := v1, stage2 := v2 }

/-- Searching reads no scratch register. -/
theorem Parser.search_withScratch (p : Parser) (h : Byte) (v1 v2 : Word) (b : Byte) :
    (p.withScratch h v1 v2).search b = (p.search b).withScratch h v1 v2 := by
  unfold Parser.search Parser.withScratch
  split_ifs <;> rfl

/-- Skipping a reserved byte reads no scratch register. -/
theorem Parser.skipReserved_withScratch (p : Parser) (h : Byte) (v1 v2 : Word) :
    (p.withScratch h v1 v2).skipReserved = p.skipReserved.withScratch h v1 v2 := by
  unfold Parser.skipReserved Parser.withScratch
  split_ifs <;> rfl

/-- These contents agree with the parser's own where the frame in progress has written them: `hi` between the two
bytes of a field, `stage1` and `stage2` after their fields. -/
def Parser.ScratchAgrees (p : Parser) (h : Byte) (v1 v2 : Word) : Prop :=
  (p.pstate ≠ .searching → p.pstate ≠ .consumingHeader → p.cnt = 1 → h = p.hi) ∧
  (p.pstate = .consumingField2 ∨ p.pstate = .consumingField3 → v1 = p.stage1) ∧
  (p.pstate = .consumingField3 → v2 = p.stage2)

theorem Parser.scratchAgrees_of_searching_or_header {p : Parser}
    (hs : p.pstate = .searching ∨ p.pstate = .consumingHeader) (h : Byte) (v1 v2 : Word) :
    p.ScratchAgrees h v1 v2 := by
  rcases hs with hs | hs <;> simp [Parser.ScratchAgrees, hs]

/-- Searching ends in Searching or in the header, where nothing is written yet. -/
theorem Parser.scratchAgrees_search {p : Parser} (hs : p.pstate = .searching) (b h : Byte) (v1 v2 : Word) :
    (p.search b).ScratchAgrees h v1 v2 := by
  apply Parser.scratchAgrees_of_searching_or_header
  rcases p.search_cases b with ⟨-, h⟩ | ⟨-, -, h⟩ | ⟨-, -, h⟩ <;> simp [h, hs]

/-- The header ends at the first field's high byte, where nothing is written yet. -/
theorem Parser.scratchAgrees_skipReserved {p : Parser} (hs : p.pstate = .consumingHeader) (h : Byte)
    (v1 v2 : Word) : p.skipReserved.ScratchAgrees h v1 v2 := by
  rcases p.skipReserved_cases with ⟨-, hk⟩ | ⟨-, hk⟩ <;> simp [Parser.ScratchAgrees, hk, hs]

/-- Two states that are equal but for scratch registers the frame in progress has not written. -/
def State.EqualWhereWritten (s t : State) : Prop :=
  ∃ h v1 v2, s.parser.ScratchAgrees h v1 v2 ∧ t = s.withParser (s.parser.withScratch h v1 v2)

theorem State.EqualWhereWritten.equalButScratch {s t : State} (hst : s.EqualWhereWritten t) :
    s.EqualButScratch t := by
  obtain ⟨h, v1, v2, -, rfl⟩ := hst
  rfl

/-- In Searching and in the header no scratch register is written yet, so they may all differ. -/
theorem State.EqualButScratch.equalWhereWritten {s t : State} (hst : s.EqualButScratch t)
    (hs : s.parser.pstate = .searching ∨ s.parser.pstate = .consumingHeader) : s.EqualWhereWritten t :=
  ⟨_, _, _, Parser.scratchAgrees_of_searching_or_header hs _ _ _, hst⟩

/-- RX_BYTE writes a scratch register before it reads it. -/
theorem execRxByte_equalWhereWritten {s t s' : State} {b : Byte} (hst : s.EqualWhereWritten t)
    (he : execRxByte b s = .next s') : ∃ t', execRxByte b t = .next t' ∧ s'.EqualWhereWritten t' := by
  obtain ⟨h, v1, v2, hag, rfl⟩ := hst
  have ⟨hhi, hv1, hv2⟩ := hag
  rcases execRxByte_next_cases he with ⟨hs, rfl⟩ | ⟨hs, rfl⟩ | ⟨hs, hh, hc, rfl⟩ | ⟨hs, hc, rfl⟩ | ⟨hs, hc, rfl⟩ |
    ⟨hs, hc, rfl⟩
  · refine ⟨_, execRxByte_searching _ b hs, h, v1, v2, Parser.scratchAgrees_search hs b h v1 v2, ?_⟩
    rw [State.withParser_parser, Parser.search_withScratch]
    rfl
  · refine ⟨_, execRxByte_header _ b hs, h, v1, v2, Parser.scratchAgrees_skipReserved hs h v1 v2, ?_⟩
    rw [State.withParser_parser, Parser.skipReserved_withScratch]
    rfl
  · exact ⟨_, execRxByte_high _ b hs hh hc, b, v1, v2, ⟨fun _ _ _ => rfl, hv1, hv2⟩, rfl⟩
  · obtain rfl : h = s.parser.hi := hhi (by simp [hs]) (by simp [hs]) hc
    exact ⟨_, execRxByte_low1 _ b hs hc, s.parser.hi, assemble s.parser.hi b, v2,
      ⟨fun _ _ _ => rfl, fun _ => rfl, nofun⟩, rfl⟩
  · obtain rfl : h = s.parser.hi := hhi (by simp [hs]) (by simp [hs]) hc
    obtain rfl : v1 = s.parser.stage1 := hv1 (.inl hs)
    exact ⟨_, execRxByte_low2 _ b hs hc, s.parser.hi, s.parser.stage1, assemble s.parser.hi b,
      ⟨fun _ _ _ => rfl, fun _ => rfl, fun _ => rfl⟩, rfl⟩
  · obtain rfl : h = s.parser.hi := hhi (by simp [hs]) (by simp [hs]) hc
    obtain rfl : v1 = s.parser.stage1 := hv1 (.inr hs)
    obtain rfl : v2 = s.parser.stage2 := hv2 hs
    exact ⟨_, execRxByte_last _ b hs hc, s.parser.hi, s.parser.stage1, s.parser.stage2,
      Parser.scratchAgrees_of_searching_or_header (.inl rfl) _ _ _, rfl⟩

/-- Every event answers alike in states that are equal where written: the events but RX_BYTE read no scratch
register. -/
theorem exec_next_equalWhereWritten {i : Instr} {s t s' : State} (hst : s.EqualWhereWritten t)
    (he : exec i s = .next s') : ∃ t', exec i t = .next t' ∧ s'.EqualWhereWritten t' := by
  obtain ⟨h, v1, v2, hag, rfl⟩ := hst
  rcases exec_next_cases he with ⟨b, rfl, -⟩ | ⟨b, p, rfl, -⟩ | ⟨rfl, rfl⟩ | ⟨rfl, rfl⟩ | ⟨rfl, rfl⟩ |
    ⟨d, rfl, hp, rfl⟩ | ⟨rfl, hp, rfl⟩ | ⟨rfl, rfl⟩ | ⟨rfl, hl, rfl⟩
  iterate 2 exact execRxByte_equalWhereWritten ⟨h, v1, v2, hag, rfl⟩ he
  · exact ⟨_, rfl, h, v1, v2, Parser.scratchAgrees_of_searching_or_header (.inl rfl) _ _ _, rfl⟩
  iterate 2 exact ⟨_, rfl, h, v1, v2, hag, rfl⟩
  · exact ⟨_, execI2cWrByte_next _ d hp, h, v1, v2, hag, rfl⟩
  · exact ⟨_, execI2cRdByte_next _ hp, h, v1, v2, hag, rfl⟩
  · exact ⟨_, rfl, h, v1, v2, hag, rfl⟩
  · exact ⟨_, execReset_next _ hl, Parser.reset.hi, Parser.reset.stage1, Parser.reset.stage2,
      Parser.scratchAgrees_of_searching_or_header (.inl rfl) _ _ _, rfl⟩

/-- No refusal looks at the Parser. -/
theorem exec_refused_withParser {i : Instr} {s : State} {r : Refusal} (p : Parser) (h : exec i s = .refused r) :
    exec i (s.withParser p) = .refused r := by
  rcases exec_refused_cases h with ⟨d, rfl, hp, rfl⟩ | ⟨rfl, hp, rfl⟩ | ⟨rfl, hl, rfl⟩
  · simp [exec, execI2cWrByte, hp]
  · simp [exec, execI2cRdByte, hp]
  · simp [exec, execReset, hl]

/-- A run from states that are equal where written ends in such states. -/
theorem runEvents_next_equalWhereWritten {is : List Instr} {s t s' : State} (hst : s.EqualWhereWritten t)
    (hrun : runEvents is s = .next s') : ∃ t', runEvents is t = .next t' ∧ s'.EqualWhereWritten t' := by
  induction is generalizing s t with
  | nil =>
    obtain rfl : s = s' := by simpa using hrun
    exact ⟨t, rfl, hst⟩
  | cons i is ih =>
    obtain ⟨u, hu, hrest⟩ := runEvents_cons_cases hrun
    obtain ⟨w, hw, huw⟩ := exec_next_equalWhereWritten hst hu
    rw [runEvents_cons_next hw]
    exact ih huw hrest

/-- A run from states that are equal where written is refused for both or for neither. -/
theorem runEvents_refused_equalWhereWritten {is : List Instr} {s t : State} {r : Refusal}
    (hst : s.EqualWhereWritten t) (hrun : runEvents is s = .refused r) : runEvents is t = .refused r := by
  induction is generalizing s t with
  | nil => simp at hrun
  | cons i is ih =>
    cases hi : exec i s with
    | next u =>
      obtain ⟨w, hw, huw⟩ := exec_next_equalWhereWritten hst hi
      rw [runEvents_cons_next hi] at hrun
      rw [runEvents_cons_next hw]
      exact ih huw hrun
    | fault f => cases f
    | refused q =>
      obtain ⟨h, v1, v2, -, rfl⟩ := hst
      obtain rfl : q = r := by simpa [runEvents, hi] using hrun
      simp [runEvents, exec_refused_withParser _ hi]

/-- Settles O13: what differs is not written yet, and stays so until the frame in progress writes it. -/
theorem scratchRegistersAreUnobservable : Obligations.ScratchRegistersAreUnobservable := by
  intro s t is hst hs
  have hw : s.EqualWhereWritten t := hst.equalWhereWritten hs
  refine ⟨fun s' hrun => ?_, fun r hrun => runEvents_refused_equalWhereWritten hw hrun⟩
  obtain ⟨t', ht', hst'⟩ := runEvents_next_equalWhereWritten hw hrun
  exact ⟨t', ht', hst'.equalButScratch⟩

end Sys2Proof.Machine
end

section
/-! Placed event words (R51, R52, R57): a step runs the event of its word, and a run of steps over the words of a list
of events is the run of the events. -/

namespace Sys2Proof.Machine

/-- The event map reads back what the encoder writes (R57, R70). -/
theorem decode_encode (i : Instr) : decode (encode i) = .ok i := by
  cases i with
  | rxByte b => revert b; decide
  | i2cWrByte d => revert d; decide
  | _ => rfl

theorem FrontEnd.deliver_word {e : Word} {i : Instr} (c : Config) (f : FrontEnd) (h : decode e = .ok i) :
    f.deliver c (.word e) = .ok (f.pend i) := by
  simp [FrontEnd.deliver, h]

/-- An event that becomes pending where none is pending is the one taken, and taking it leaves none pending
(R105, R111). -/
theorem State.take_pend {s : State} (hq : s.Quiet) (i : Instr) :
    (s.withFrontEnd (s.frontEnd.pend i)).take = .event i s := by
  obtain ⟨cfg, regs, parser, responder, ⟨resetReq, i2cQ, uartQ, burst, bus⟩, input, returned⟩ := s
  obtain ⟨rfl, rfl, rfl⟩ : resetReq = false ∧ i2cQ = [] ∧ uartQ = [] := hq
  cases i <;> rfl

/-- Settles O40: the word is the only event pending once its slot has arrived, so it is the one taken. -/
theorem stepRunsTheDecodedEvent : Obligations.StepRunsTheDecodedEvent := by
  intro s e i rest hl hq hin hd
  have hslot : s.frontEnd.deliverAll s.cfg [.word e] = .ok (s.frontEnd.pend i) :=
    FrontEnd.deliverAll_one (FrontEnd.deliver_word s.cfg s.frontEnd hd)
  have hfetch : s.fetch = .event i (s.withInput rest) :=
    (State.fetch_of_deliverAll hl hin hslot).trans (State.take_pend (s := s.withInput rest) hq i)
  rw [step, hfetch]
  rfl

theorem execRxByte_next_withInput {s t : State} {b : Byte} (x : List (List Stimulus))
    (h : execRxByte b s = .next t) : execRxByte b (s.withInput x) = .next (t.withInput x) := by
  rcases execRxByte_next_cases h with ⟨hs, rfl⟩ | ⟨hs, rfl⟩ | ⟨hs, hh, hc, rfl⟩ | ⟨hs, hc, rfl⟩ | ⟨hs, hc, rfl⟩ |
    ⟨hs, hc, rfl⟩
  · exact execRxByte_searching _ b hs
  · exact execRxByte_header _ b hs
  · exact execRxByte_high _ b hs hh hc
  · exact execRxByte_low1 _ b hs hc
  · exact execRxByte_low2 _ b hs hc
  · exact execRxByte_last _ b hs hc

/-- No event looks at what the environment does next: with another input it answers the same but for that input. -/
theorem exec_next_withInput {i : Instr} {s t : State} (x : List (List Stimulus)) (h : exec i s = .next t) :
    exec i (s.withInput x) = .next (t.withInput x) := by
  rcases exec_next_cases h with ⟨b, rfl, -⟩ | ⟨b, p, rfl, -⟩ | ⟨rfl, rfl⟩ | ⟨rfl, rfl⟩ | ⟨rfl, rfl⟩ |
    ⟨d, rfl, hp, rfl⟩ | ⟨rfl, hp, rfl⟩ | ⟨rfl, rfl⟩ | ⟨rfl, hl, rfl⟩
  iterate 2 exact execRxByte_next_withInput x h
  iterate 3 rfl
  · exact execI2cWrByte_next _ d hp
  · exact execI2cRdByte_next _ hp
  · rfl
  · exact execReset_next _ hl

/-- No refusal looks at what the environment does next. -/
theorem exec_refused_withInput {i : Instr} {s : State} {r : Refusal} (x : List (List Stimulus))
    (h : exec i s = .refused r) : exec i (s.withInput x) = .refused r := by
  rcases exec_refused_cases h with ⟨d, rfl, hp, rfl⟩ | ⟨rfl, hp, rfl⟩ | ⟨rfl, hl, rfl⟩
  · exact if_neg hp
  · exact if_neg hp
  · exact if_neg hl

/-- Events make nothing pending: RESET discards what is, and the others leave it (R111). -/
theorem exec_quiet {i : Instr} {s t : State} (hq : s.Quiet) (h : exec i s = .next t) : t.Quiet := by
  obtain ⟨hkeep, hreset⟩ := exec_frontEnd h
  by_cases hi : i = .reset
  · rw [State.Quiet, hreset hi]
    exact ⟨rfl, rfl, rfl⟩
  · rwa [State.Quiet, hkeep hi]

theorem runEvents_cons_refused {i : Instr} {is : List Instr} {s : State} {r : Refusal} (h : exec i s = .refused r) :
    runEvents (i :: is) s = .refused r := by
  simp [runEvents, h]

/-- `s` with the words of the events `is` placed before its input, one a slot (R57). -/
def State.placeEvents (s : State) (is : List Instr) : State :=
  s.withInput (is.map (fun i => [.word (encode i)]) ++ s.input)

/-- A step over placed words runs the first event, with the words of the others still placed. -/
theorem step_placeEvents_cons {s : State} (hl : s.cfg.legal = true) (hq : s.Quiet) (i : Instr) (is : List Instr) :
    step (s.placeEvents (i :: is)) = exec i (s.placeEvents is) :=
  stepRunsTheDecodedEvent (s.placeEvents (i :: is)) (encode i) i _ hl hq rfl (decode_encode i)

/-- An event answers the same under placed words, which stay placed. -/
theorem exec_next_placeEvents {i : Instr} {s t : State} (is : List Instr) (h : exec i s = .next t) :
    exec i (s.placeEvents is) = .next (t.placeEvents is) := by
  rw [State.placeEvents, State.placeEvents, exec_input h]
  exact exec_next_withInput _ h

/-- Settles O45, by induction on the list: each step runs the next event and leaves nothing pending. -/
theorem stepsOnPlacedWordsAreTheEventRun : Obligations.StepsOnPlacedWordsAreTheEventRun := by
  intro is s hl hq
  change Host.Core.run core is.length (s.placeEvents is) = runEvents is s
  induction is generalizing s with
  | nil => rfl
  | cons i is ih =>
    have hstep := step_placeEvents_cons hl hq i is
    cases hi : exec i s with
    | next t =>
      have hnext : step (s.placeEvents (i :: is)) = .next (t.placeEvents is) :=
        hstep.trans (exec_next_placeEvents is hi)
      rw [List.length_cons, core_run_succ_next hnext, runEvents_cons_next hi]
      exact ih t (by rwa [exec_cfg hi]) (exec_quiet hq hi)
    | fault f => cases f
    | refused r =>
      have hrefused : step (s.placeEvents (i :: is)) = .refused r := hstep.trans (exec_refused_withInput _ hi)
      exact (core_run_succ_refused hrefused).trans (runEvents_cons_refused hi).symm

end Sys2Proof.Machine
end

section
/-! The checks on what comes from outside (R57, R70, R71, R129). For an event word: the decoder and the encoder are
inverse, and the words without an event are those whose fields have no event word's form. -/

namespace Sys2Proof

open Machine

/-- A legal address lies in 0x08 to 0x77 (R129). -/
theorem Config.legal_iff {c : Config} : c.legal = true ↔ 0x08 ≤ c.i2cAddr.toNat ∧ c.i2cAddr.toNat ≤ 0x77 := by
  simp [Config.legal, BitVec.le_def]

/-- The mask of an operand row keeps the upper byte (R70). -/
theorem and_operandMask (e : Word) : e &&& 0xFF00 = e.extractLsb' 8 8 ++ (0 : Byte) := by
  have hmask : (0xFF00 : Word) = BitVec.allOnes 8 ++ (0 : Byte) := rfl
  have hbytes : e.extractLsb' 8 8 ++ wordData e = e := BitVec.extractLsb'_append_extractLsb'
  calc e &&& 0xFF00
      = (e.extractLsb' 8 8 ++ wordData e) &&& (BitVec.allOnes 8 ++ (0 : Byte)) := by rw [hbytes, hmask]
    _ = e.extractLsb' 8 8 ++ (0 : Byte) := by
        rw [BitVec.and_append, BitVec.and_allOnes]
        exact congrArg _ BitVec.and_zero

/-- The mask of a row without an operand keeps the whole word (R70). -/
theorem and_fullMask (e : Word) : e &&& 0xFFFF = e := BitVec.and_allOnes

/-- A word is the event word of a kind and an operand exactly if its masked bits are those of the kind and its data is
the operand (R70). -/
theorem eventWord_eq_iff {k : BitVec 4} {b : Byte} {e : Word} :
    eventWord k b = e ↔ e &&& 0xFF00 = eventWord k 0 ∧ b = wordData e := by
  rw [and_operandMask, eventWord, eventWord, BitVec.append_left_inj]
  constructor
  · rintro rfl
    exact ⟨BitVec.extractLsb'_append_eq_left, BitVec.extractLsb'_append_eq_right.symm⟩
  · rintro ⟨hhigh, rfl⟩
    rw [← hhigh]
    exact BitVec.extractLsb'_append_extractLsb'

/-- With bits 11:8 zero a word is the event word of its kind and its data (R57). -/
theorem eventWord_wordKind_wordData {e : Word} (hz : wordZero e = 0) : eventWord (wordKind e) (wordData e) = e := by
  have hhigh : wordKind e ++ wordZero e = e.extractLsb' 8 8 := BitVec.extractLsb'_append_extractLsb'_eq_extractLsb' rfl
  rw [eventWord, ← hz, hhigh]
  exact BitVec.extractLsb'_append_extractLsb'

/-- The decoder answers with the event of a row that accepts the word, or refuses the word if there is none (R70,
R71). -/
theorem decode_cases (e : Word) :
    (∃ r ∈ eventRows, r.accepts e = true ∧ decode e = .ok (r.event (wordData e))) ∨
      decode e = .error (.reservedEvent e) := by
  unfold decode
  cases hf : eventRows.find? (fun r => r.accepts e) with
  | none => exact .inr rfl
  | some r => exact .inl ⟨r, List.mem_of_find?_eq_some hf, List.find?_some (p := (EventRow.accepts · e)) hf, rfl⟩

/-- A word that a row accepts is the event word of the row's event with the word's data as operand. -/
theorem EventRow.encode_event {r : EventRow} {e : Word} (hr : r ∈ eventRows) (ha : r.accepts e = true) :
    encode (r.event (wordData e)) = e := by
  simp only [eventRows, List.mem_cons, List.not_mem_nil, or_false] at hr
  have hmatch : e &&& r.mask = r.pattern := beq_iff_eq.mp ha
  rcases hr with rfl | rfl | rfl | rfl | rfl | rfl | rfl | rfl
  · exact eventWord_eq_iff.mpr ⟨hmatch, rfl⟩
  iterate 3 exact hmatch.symm.trans (and_fullMask e)
  · exact eventWord_eq_iff.mpr ⟨hmatch, rfl⟩
  iterate 3 exact hmatch.symm.trans (and_fullMask e)

/-- Settles O35: the law of the decoder, event by event over every operand. -/
theorem decodeEncodeRoundTrip : Obligations.DecodeEncodeRoundTrip := decode_encode

/-- Settles O36: the row that accepts the word determines it. -/
theorem encodeDecodeRoundTrip : Obligations.EncodeDecodeRoundTrip := by
  intro e i h
  rcases decode_cases e with ⟨r, hr, ha, hd⟩ | hd
  · obtain rfl : r.event (wordData e) = i := by simpa [hd] using h
    exact EventRow.encode_event hr ha
  · simp [hd] at h

/-- The decoder and the encoder are inverse. -/
theorem decode_eq_ok_iff {e : Word} {i : Instr} : decode e = .ok i ↔ encode i = e :=
  ⟨encodeDecodeRoundTrip e i, by rintro rfl; exact decode_encode i⟩

/-- Settles O38: a row's event decodes from the row's own words alone, and those are its masked bits. -/
theorem eventMapRows : Obligations.EventMapRows := by
  intro e
  simp only [decode_eq_ok_iff, and_fullMask]
  exact ⟨fun _ => eventWord_eq_iff, eq_comm, eq_comm, eq_comm, fun _ => eventWord_eq_iff, eq_comm, eq_comm, eq_comm⟩

/-- Settles O39: each word is the encoder's word of its event, and no row accepts the last three. -/
theorem eventWordsDecodeAsTheMapSays : Obligations.EventWordsDecodeAsTheMapSays :=
  ⟨decode_encode (.rxByte 0x42), decode_encode .rxIdle, decode_encode .i2cAddrW, decode_encode .i2cAddrR,
    decode_encode (.i2cWrByte 0xFF), decode_encode .i2cRdByte, decode_encode .i2cStop, decode_encode .reset,
    rfl, rfl, rfl⟩

/-- The word the encoder writes has the form of an event word (R57). -/
theorem wordWellFormed_encode (i : Instr) : wordWellFormed (encode i) = true := by
  cases i with
  | rxByte b => exact Laws.EncodedWordIsWellFormed.rxByte b
  | i2cWrByte d => exact Laws.EncodedWordIsWellFormed.i2cWrByte d
  | _ => rfl

/-- The fields of a word that has the form of an event word (R57, R71). -/
theorem wordWellFormed_iff {e : Word} :
    wordWellFormed e = true ↔ (0x1 ≤ wordKind e ∧ wordKind e ≤ 0x8) ∧ wordZero e = 0 ∧
      ((wordKind e = 0x1 ∨ wordKind e = 0x5) ∨ wordData e = 0) := by
  simp [wordWellFormed, kindHasOperand, and_assoc]

theorem kind_cases {k : BitVec 4} (h : 0x1 ≤ k ∧ k ≤ 0x8) :
    k = 0x1 ∨ k = 0x2 ∨ k = 0x3 ∨ k = 0x4 ∨ k = 0x5 ∨ k = 0x6 ∨ k = 0x7 ∨ k = 0x8 := by
  revert k
  decide

/-- Each kind from 0x1 to 0x8 is an event's, with an operand or with data 0x00 (R57). -/
theorem exists_encode_eq_eventWord {k : BitVec 4} {d : Byte} (hk : 0x1 ≤ k ∧ k ≤ 0x8)
    (hd : (k = 0x1 ∨ k = 0x5) ∨ d = 0) : ∃ i, encode i = eventWord k d := by
  rcases hd with (rfl | rfl) | rfl
  · exact ⟨.rxByte d, rfl⟩
  · exact ⟨.i2cWrByte d, rfl⟩
  · rcases kind_cases hk with rfl | rfl | rfl | rfl | rfl | rfl | rfl | rfl
    exacts [⟨.rxByte 0, rfl⟩, ⟨.rxIdle, rfl⟩, ⟨.i2cAddrW, rfl⟩, ⟨.i2cAddrR, rfl⟩, ⟨.i2cWrByte 0, rfl⟩,
      ⟨.i2cRdByte, rfl⟩, ⟨.i2cStop, rfl⟩, ⟨.reset, rfl⟩]

/-- A word is an event exactly if its fields have the form of an event word (R57, R70, R71). -/
theorem exists_decode_eq_ok_iff {e : Word} : (∃ i, decode e = .ok i) ↔ wordWellFormed e = true := by
  simp only [decode_eq_ok_iff]
  constructor
  · rintro ⟨i, rfl⟩
    exact wordWellFormed_encode i
  · intro h
    obtain ⟨hk, hz, hd⟩ := wordWellFormed_iff.mp h
    rw [← eventWord_wordKind_wordData hz]
    exact exists_encode_eq_eventWord hk hd

/-- A word is refused by the decoder exactly if it is reserved by its fields (R71). -/
theorem decode_eq_error_iff {e : Word} : decode e = .error (.reservedEvent e) ↔ wordWellFormed e = false := by
  rw [← Bool.not_eq_true, ← exists_decode_eq_ok_iff]
  rcases decode_cases e with ⟨r, -, -, hd⟩ | hd <;> simp [hd]

end Sys2Proof
end

section
/-! Reserved words at a step (R71, R114): a slot with one is refused when it arrives. -/

namespace Sys2Proof.Machine

/-- An event word and every wire stimulus arrive, whatever the front-ends hold. -/
theorem FrontEnd.deliver_ok {x : Stimulus} (c : Config) (f : FrontEnd)
    (hx : ∀ e, x = .word e → wordWellFormed e = true) : ∃ f', f.deliver c x = .ok f' := by
  cases h : f.deliver c x with
  | ok f' => exact ⟨f', rfl⟩
  | error r =>
    obtain ⟨e, rfl, w, hd, -⟩ := FrontEnd.deliver_error h
    obtain ⟨i, hi⟩ := exists_decode_eq_ok_iff.mpr (hx e rfl)
    simp [hi] at hd

/-- The first reserved word of a slot refuses the slot, whatever stands around it. -/
theorem FrontEnd.deliverAll_reserved {before : List Stimulus} {e : Word} (c : Config) (f : FrontEnd)
    (after : List Stimulus) (hb : ∀ e', Stimulus.word e' ∈ before → wordWellFormed e' = true)
    (he : decode e = .error (.reservedEvent e)) :
    f.deliverAll c (before ++ .word e :: after) = .error (.reservedEvent e) := by
  induction before generalizing f with
  | nil => simp [FrontEnd.deliverAll, FrontEnd.deliver, he]
  | cons x before ih =>
    obtain ⟨f', hf'⟩ := f.deliver_ok c (x := x) (by rintro e' rfl; exact hb e' (by simp))
    simpa [FrontEnd.deliverAll, hf'] using ih f' fun e' hmem => hb e' (by simp [hmem])

/-- A slot that is refused refuses the step (R114). -/
theorem step_of_deliverAll_error {s : State} {slot : List Stimulus} {rest : List (List Stimulus)} {r : Refusal}
    (hl : s.cfg.legal = true) (hi : s.input = slot :: rest) (hd : s.frontEnd.deliverAll s.cfg slot = .error r) :
    step s = .refused r := by
  simp [step, State.fetch, State.arrive, hl, hi, hd]

/-- Settles O41: the words before the reserved one arrive, and it refuses the slot. -/
theorem stepRefusesReservedWord : Obligations.StepRefusesReservedWord := by
  intro s e before after rest hl hb hin he
  exact step_of_deliverAll_error hl hin
    (FrontEnd.deliverAll_reserved s.cfg s.frontEnd after hb (decode_eq_error_iff.mpr he))

/-- The kinds R71 reserves are those outside 0x1 to 0x8. -/
theorem kind_reserved_iff {k : BitVec 4} : ¬(0x1 ≤ k ∧ k ≤ 0x8) ↔ k = 0x0 ∨ 0x9 ≤ k.toNat := by
  revert k
  decide

/-- A word is reserved exactly if its kind is, its bits 11:8 are not zero, or its kind has no operand and its data is
not zero (R71). -/
theorem wordWellFormed_eq_false_iff {e : Word} :
    wordWellFormed e = false ↔ (wordKind e = 0x0 ∨ 0x9 ≤ (wordKind e).toNat) ∨ wordZero e ≠ 0 ∨
      (wordKind e ≠ 0x1 ∧ wordKind e ≠ 0x5 ∧ wordData e ≠ 0) := by
  rw [← Bool.not_eq_true, wordWellFormed_iff, not_and_or, kind_reserved_iff, not_and_or, not_or, not_or, and_assoc]

/-- Settles O37: the decoder refuses what is reserved by its fields, and such a word refuses its slot. -/
theorem reservedWordsAreRefused : Obligations.ReservedWordsAreRefused := by
  intro e
  refine ⟨decode_eq_error_iff.trans wordWellFormed_eq_false_iff, fun he s rest hl hin => ?_⟩
  exact stepRefusesReservedWord s e [] [] rest hl nofun hin (decode_eq_error_iff.mp he)

end Sys2Proof.Machine
end

section
/-! One stimulus on the wires (R62 to R66, R108): with nothing pending the step runs the event it delivers, or only
uses its slot up if it delivers none. -/

namespace Sys2Proof.Machine

/-- With nothing pending, a stimulus that delivers the event `i` and leaves the front-ends at `f` otherwise: the step
runs `i` (R105, R111). -/
theorem step_of_deliver_pend {s : State} {x : Stimulus} {rest : List (List Stimulus)} {f : FrontEnd} {i : Instr}
    (hl : s.cfg.legal = true) (hq : (s.withFrontEnd f).Quiet) (hin : s.input = [x] :: rest)
    (hd : s.frontEnd.deliver s.cfg x = .ok (f.pend i)) :
    step s = exec i { s with input := rest, frontEnd := f } := by
  have hfetch : s.fetch = .event i ((s.withFrontEnd f).withInput rest) :=
    (State.fetch_of_deliverAll hl hin (FrontEnd.deliverAll_one hd)).trans
      (State.take_pend (s := (s.withFrontEnd f).withInput rest) hq i)
  rw [step, hfetch]
  rfl

/-- With nothing pending there is nothing to take (R123). -/
theorem State.take_quiet {s : State} (hq : s.Quiet) : s.take = .hold s := by
  obtain ⟨hr, hi, hu⟩ := hq
  simp [State.take, hr, hi, hu]

/-- With nothing pending, a stimulus that delivers no event and leaves the front-ends at `f`: the step uses the slot
up. -/
theorem step_of_deliver_quiet {s : State} {x : Stimulus} {rest : List (List Stimulus)} {f : FrontEnd}
    (hl : s.cfg.legal = true) (hq : (s.withFrontEnd f).Quiet) (hin : s.input = [x] :: rest)
    (hd : s.frontEnd.deliver s.cfg x = .ok f) : step s = .next { s with input := rest, frontEnd := f } := by
  have hfetch : s.fetch = .hold ((s.withFrontEnd f).withInput rest) :=
    (State.fetch_of_deliverAll hl hin (FrontEnd.deliverAll_one hd)).trans
      (State.take_quiet (s := (s.withFrontEnd f).withInput rest) hq)
  rw [step, hfetch]
  rfl

/-! Addressing (R64, R65(a)). -/

@[simp] theorem busAddress_append (a : BitVec 7) (b : BitVec 1) : busAddress (a ++ b) = a :=
  BitVec.extractLsb'_append_eq_left

@[simp] theorem busIsRead_append (a : BitVec 7) (b : BitVec 1) : busIsRead (a ++ b) = b.getLsbD 0 :=
  BitVec.getLsbD_append.trans (if_pos Nat.zero_lt_one)

theorem busAddress_toNat (a : Byte) : (busAddress a).toNat = a.toNat / 2 := by
  simp only [busAddress, BitVec.extractLsb'_toNat, Nat.shiftRight_eq_div_pow]
  have := a.isLt
  omega

/-- START with another address opens a transfer to another target (R65(a)). -/
theorem FrontEnd.i2cStart_other {c : Config} {a : Byte} (f : FrontEnd) (h : busAddress a ≠ c.i2cAddr) :
    f.i2cStart c a = { f with bus := .ignoring } := if_neg h

theorem FrontEnd.i2cStart_own_write (c : Config) (f : FrontEnd) :
    f.i2cStart c (c.i2cAddr ++ (0 : BitVec 1)) = FrontEnd.pend { f with bus := .writing } .i2cAddrW :=
  (if_pos (busAddress_append _ _)).trans (if_neg (by simp))

theorem FrontEnd.i2cStart_own_read (c : Config) (f : FrontEnd) :
    f.i2cStart c (c.i2cAddr ++ (1 : BitVec 1)) = FrontEnd.pend { f with bus := .reading } .i2cAddrR :=
  (if_pos (busAddress_append _ _)).trans (if_pos (by simp))

/-- Settles O47: the R/W bit picks the event and the direction. -/
theorem ownAddressIsAnswered : Obligations.OwnAddressIsAnswered := by
  intro s rest hl hq
  constructor
  · intro hin
    exact step_of_deliver_pend hl hq hin (congrArg Except.ok (FrontEnd.i2cStart_own_write s.cfg s.frontEnd))
  · intro hin
    exact step_of_deliver_pend hl hq hin (congrArg Except.ok (FrontEnd.i2cStart_own_read s.cfg s.frontEnd))

/-- Settles O48: another address opens a transfer to another target, and the reserved ranges hold no legal address. -/
theorem otherAddressIsIgnored : Obligations.OtherAddressIsIgnored := by
  intro s a rest hl hq hin
  constructor
  · intro hne
    have hother : busAddress a ≠ s.cfg.i2cAddr := by
      intro h
      exact hne (by rw [← busAddress_toNat, h])
    exact step_of_deliver_quiet hl hq hin (congrArg Except.ok (s.frontEnd.i2cStart_other hother))
  · obtain ⟨hlow, hhigh⟩ := Config.legal_iff.mp hl
    omega

/-! Data and STOP (R65(b) to R65(e), R66). -/

theorem FrontEnd.i2cWrite_writing {f : FrontEnd} (received : Nat) (h : f.bus = .writing) :
    f.i2cWrite received = f.pend (.i2cWrByte (registerIndex received)) := by
  simp [FrontEnd.i2cWrite, FrontEnd.pend, h]

theorem FrontEnd.i2cRead_reading {f : FrontEnd} (h : f.bus = .reading) : f.i2cRead = f.pend .i2cRdByte := by
  simp [FrontEnd.i2cRead, FrontEnd.pend, h]

theorem FrontEnd.i2cStop_addressed {f : FrontEnd} (h : f.bus = .writing ∨ f.bus = .reading) :
    f.i2cStop = FrontEnd.pend { f with bus := .idle } .i2cStop := by
  rcases h with h | h <;> simp [FrontEnd.i2cStop, FrontEnd.pend, FrontEnd.pendI2c, h]

/-- The register index is the received word modulo 256 (R66). -/
theorem registerIndex_eq (received : Nat) : registerIndex received = BitVec.ofNat 8 (received % 256) := by
  simp [registerIndex, ← BitVec.toNat_inj]

/-- Settles O49: each stimulus of an addressed transfer delivers its own event, and the master's ACK none. -/
theorem addressedTransferDeliversItsEvents : Obligations.AddressedTransferDeliversItsEvents := by
  intro s received ack rest hl hq
  refine ⟨fun hb hin => ?_, fun hb hin => ?_, fun hb hin => ?_, fun hin => ?_⟩
  · rw [← registerIndex_eq]
    exact step_of_deliver_pend hl hq hin (congrArg Except.ok (FrontEnd.i2cWrite_writing received hb))
  · exact step_of_deliver_pend hl hq hin (congrArg Except.ok (FrontEnd.i2cRead_reading hb))
  · exact step_of_deliver_pend hl hq hin (congrArg Except.ok (FrontEnd.i2cStop_addressed hb))
  · exact step_of_deliver_quiet hl hq hin rfl

/-- In a transfer to another target the front-end only looks for its STOP (R65(a), R108). -/
theorem FrontEnd.ignoring_unseen {f : FrontEnd} (received : Nat) (h : f.bus = .ignoring) :
    f.i2cWrite received = f ∧ f.i2cRead = f ∧ f.i2cStop = { f with bus := .idle } := by
  simp [FrontEnd.i2cWrite, FrontEnd.i2cRead, FrontEnd.i2cStop, h]

/-- Settles O50: the front-end is the same after data, and only its mode differs after STOP. -/
theorem foreignTransferIsUnseen : Obligations.ForeignTransferIsUnseen := by
  intro s received rest hl hq hb
  obtain ⟨hwrite, hread, hstop⟩ := FrontEnd.ignoring_unseen received hb
  refine ⟨?_, fun hin => ?_⟩
  · rintro (hin | hin)
    · exact step_of_deliver_quiet hl hq hin (congrArg Except.ok hwrite)
    · exact step_of_deliver_quiet hl hq hin (congrArg Except.ok hread)
  · exact step_of_deliver_quiet hl hq hin (congrArg Except.ok hstop)

/-! The UART line (R62, R63). -/

theorem FrontEnd.uartIdle_closed {f : FrontEnd} (c : Config) (bits : Nat) (h : f.burst = none) :
    f.uartIdle c bits = f := by
  simp [FrontEnd.uartIdle, h]

theorem FrontEnd.uartIdle_ends {c : Config} {f : FrontEnd} {bits gap : Nat} (h : f.burst = some gap)
    (hg : c.rxIdleBits ≤ gap + bits) : f.uartIdle c bits = FrontEnd.pend { f with burst := none } .rxIdle := by
  simp [FrontEnd.uartIdle, FrontEnd.pend, FrontEnd.pendUart, h, hg]

theorem FrontEnd.uartIdle_continues {c : Config} {f : FrontEnd} {bits gap : Nat} (h : f.burst = some gap)
    (hg : gap + bits < c.rxIdleBits) : f.uartIdle c bits = { f with burst := some (gap + bits) } := by
  simp [FrontEnd.uartIdle, h, hg]

/-- Settles O51: a character opens a burst, and idle time ends it or lengthens its gap. -/
theorem uartLineDeliversBytesAndBurstEnd : Obligations.UartLineDeliversBytesAndBurstEnd := by
  intro s d stopBit bits rest hl hq
  refine ⟨fun hin => ?_, fun gap hb hin => ⟨fun hg => ?_, fun hg => ?_⟩, fun hb hin => ?_⟩
  · exact step_of_deliver_pend (f := { s.frontEnd with burst := some 0 }) hl hq hin rfl
  · exact step_of_deliver_pend hl hq hin (congrArg Except.ok (FrontEnd.uartIdle_ends hb hg))
  · exact step_of_deliver_quiet hl hq hin (congrArg Except.ok (FrontEnd.uartIdle_continues hb hg))
  · exact step_of_deliver_quiet hl hq hin (congrArg Except.ok (FrontEnd.uartIdle_closed s.cfg bits hb))

end Sys2Proof.Machine
end

section
/-! Field assembly (R67, R68): two bytes, high byte first, are a 16-bit value. -/

namespace Sys2Proof.Machine

/-- Shift and or put the two bytes side by side (R68). -/
theorem assemble_eq_append (h l : Byte) : assemble h l = h ++ l :=
  BitVec.setWidth_append_eq_shiftLeft_setWidth_or.symm.trans (BitVec.setWidth_eq (h ++ l))

theorem append_toNat (h l : Byte) : (h ++ l).toNat = 256 * h.toNat + l.toNat := by
  rw [BitVec.toNat_append, ← Nat.shiftLeft_add_eq_or_of_lt l.isLt, Nat.shiftLeft_eq, mul_comm]

/-- Settles O58: the number is that of the two bytes side by side. -/
theorem assemblyIsExact : Obligations.AssemblyIsExact := by
  intro h l
  refine ⟨rfl, assemble_eq_append h l, ?_⟩
  rw [assemble_eq_append, append_toNat]

/-- Settles O59: a value is its high byte beside its low byte. -/
theorem bytesOfValueReassemble : Obligations.BytesOfValueReassemble := by
  intro v
  rw [assemble_eq_append]
  exact BitVec.extractLsb'_append_extractLsb'

end Sys2Proof.Machine
end

section
/-! The combined select and read (R74). -/

namespace Sys2Proof.Machine

/-- In a read transfer with an empty queue two read clocks return the two bytes of one sample and leave the queue
empty (R101, R102). -/
theorem runEvents_readPair {s : State} (hp : s.responder.phase = .read) (hq : s.responder.txq = []) :
    runEvents [.i2cRdByte, .i2cRdByte] s =
      .next { s with returned := s.returned ++ [highByte s.requestValue, lowByte s.requestValue] } := by
  have hfirst : exec .i2cRdByte s = .next s.serveByte := execI2cRdByte_next s hp
  have hsecond : exec .i2cRdByte s.serveByte = .next s.serveByte.serveByte := execI2cRdByte_next s.serveByte hp
  have hempty : { s.responder with txq := [] } = s.responder := by rw [← hq]
  rw [runEvents_cons_next hfirst, runEvents_cons_next hsecond, runEvents_nil]
  simp [State.serveByte, State.nextByte, State.withResponder, State.emit, hq, hempty]

/-- A select and the turn to the read direction, from every state (R92, R93, R94). -/
theorem runEvents_selectForRead (s : State) (d : Byte) :
    runEvents [.i2cAddrW, .i2cWrByte d, .i2cAddrR] s =
      .next (s.withResponder { selValid := true, sel := d, txq := [], phase := .read }) := rfl

/-- With a register selected a read-request samples it (R100). -/
theorem State.requestValue_selected {s : State} (h : s.responder.selValid = true) :
    s.requestValue = s.regs.value s.responder.sel := if_pos h

/-- Settles O26: the select in the write half fixes the index that the read half samples. -/
theorem selectThenReadReturnsRegister : Obligations.SelectThenReadReturnsRegister := by
  intro s d
  refine (runEvents_append (runEvents_selectForRead s d)).trans ?_
  refine (runEvents_append (runEvents_readPair rfl rfl)).trans ?_
  rw [State.requestValue_selected rfl]
  rfl

end Sys2Proof.Machine
end

section
/-! The I2C front-end's contract (R65, R114): what the front-ends deliver fits what the Responder and the pending
events expect, and every step keeps that. -/

namespace Sys2Proof.Machine

/-- The pending I2C events all fit the phase `p`, and what is delivered next will fit the phase they leave. -/
def FrontEnd.AgreesFrom (f : FrontEnd) (p : Phase) : Prop :=
  ∃ q, phaseAfterAll p f.i2cQ = some q ∧ f.bus.fits q = true

theorem State.busAgrees_iff {s : State} : s.busAgrees = true ↔ s.frontEnd.AgreesFrom s.responder.phase := by
  unfold State.busAgrees FrontEnd.AgreesFrom
  cases phaseAfterAll s.responder.phase s.frontEnd.i2cQ <;> simp

theorem phaseAfterAll_cons {p : Phase} {e : I2cEvent} {es : List I2cEvent} :
    phaseAfterAll p (e :: es) = (e.phaseAfter p).bind (phaseAfterAll · es) := by
  cases h : e.phaseAfter p <;> simp [phaseAfterAll, h]

/-- An event behind the pending ones is taken in the phase they leave. -/
theorem phaseAfterAll_append_one {p : Phase} {es : List I2cEvent} {e : I2cEvent} :
    phaseAfterAll p (es ++ [e]) = (phaseAfterAll p es).bind e.phaseAfter := by
  induction es generalizing p with
  | nil => cases h : e.phaseAfter p <;> simp [phaseAfterAll, h]
  | cons a es ih => simp [phaseAfterAll_cons, Option.bind_assoc, ih]

theorem BusMode.writing_fits {q : Phase} : BusMode.writing.fits q = true ↔ q = .write := beq_iff_eq

theorem BusMode.reading_fits {q : Phase} : BusMode.reading.fits q = true ↔ q = .read := beq_iff_eq

/-- Activity on the wires keeps the agreement: a data event is delivered only in its direction (R65). -/
theorem FrontEnd.deliver_agreesFrom {c : Config} {f f' : FrontEnd} {x : Stimulus} {p : Phase}
    (hw : x.isWord = false) (hd : f.deliver c x = .ok f') (hf : f.AgreesFrom p) : f'.AgreesFrom p := by
  obtain ⟨q, hq, hfit⟩ := hf
  rcases FrontEnd.deliver_i2c hw hd with ⟨hi, hb⟩ | ⟨hi, hb⟩ | ⟨hi, hb⟩ | ⟨d, hb', hi, hb⟩ | ⟨hb', hi, hb⟩ | ⟨hi, hb⟩
  · refine ⟨q, hi ▸ hq, ?_⟩
    rcases hb with hb | hb | hb <;> rw [hb]
    exacts [hfit, rfl, rfl]
  · exact ⟨.write, by simp [hi, phaseAfterAll_append_one, hq, I2cEvent.phaseAfter], by rw [hb]; rfl⟩
  · exact ⟨.read, by simp [hi, phaseAfterAll_append_one, hq, I2cEvent.phaseAfter], by rw [hb]; rfl⟩
  · obtain rfl : q = .write := BusMode.writing_fits.mp (hb' ▸ hfit)
    exact ⟨.write, by simp [hi, phaseAfterAll_append_one, hq, I2cEvent.phaseAfter], by rw [hb]; rfl⟩
  · obtain rfl : q = .read := BusMode.reading_fits.mp (hb' ▸ hfit)
    exact ⟨.read, by simp [hi, phaseAfterAll_append_one, hq, I2cEvent.phaseAfter], by rw [hb]; rfl⟩
  · exact ⟨.none, by simp [hi, phaseAfterAll_append_one, hq, I2cEvent.phaseAfter], by rw [hb]; rfl⟩

/-- A slot of wire activity arrives whole and keeps the agreement. -/
theorem FrontEnd.deliverAll_agreesFrom {c : Config} {f : FrontEnd} {slot : List Stimulus} {p : Phase}
    (hw : ∀ x ∈ slot, x.isWord = false) (hf : f.AgreesFrom p) :
    ∃ f', f.deliverAll c slot = .ok f' ∧ f'.AgreesFrom p := by
  induction slot generalizing f with
  | nil => exact ⟨f, rfl, hf⟩
  | cons x slot ih =>
    have hx : x.isWord = false := hw x (by simp)
    obtain ⟨f₁, hd⟩ := f.deliver_ok c (x := x) (by rintro e rfl; cases hx)
    obtain ⟨f', hall, hf'⟩ := ih (fun y hy => hw y (by simp [hy])) (FrontEnd.deliver_agreesFrom hx hd hf)
    exact ⟨f', by simpa [FrontEnd.deliverAll, hd] using hall, hf'⟩

/-- What arrives keeps the contract. -/
theorem State.WithinContract.arrive {s : State} (h : s.WithinContract) :
    ∃ u, s.arrive = .ok u ∧ u.WithinContract := by
  obtain ⟨hl, hw, hb⟩ := h
  cases hi : s.input with
  | nil => exact ⟨s, by simp [State.arrive, hi], hl, hw, hb⟩
  | cons slot rest =>
    obtain ⟨f, hf, hag⟩ := FrontEnd.deliverAll_agreesFrom (c := s.cfg) (hw slot (by simp [hi]))
      (State.busAgrees_iff.mp hb)
    refine ⟨(s.withFrontEnd f).withInput rest, by simp [State.arrive, hi, hf], hl, ?_, State.busAgrees_iff.mpr hag⟩
    exact fun slot' hs => hw slot' (by simp [hi, show slot' ∈ rest from hs])

/-- An I2C event that fits the phase completes and leaves the phase `phaseAfter` names (R92, R93, R94, R101, R104). -/
theorem exec_i2cEvent_of_phaseAfter {e : I2cEvent} {s : State} {p : Phase}
    (h : e.phaseAfter s.responder.phase = some p) : ∃ t, exec e.instr s = .next t ∧ t.responder.phase = p := by
  cases e with
  | addrW => exact ⟨_, rfl, Option.some.inj h⟩
  | addrR => exact ⟨_, rfl, Option.some.inj h⟩
  | wrByte d =>
    obtain ⟨hp, rfl⟩ : s.responder.phase = .write ∧ .write = p := by simpa [I2cEvent.phaseAfter] using h
    exact ⟨_, execI2cWrByte_next s d hp, hp⟩
  | rdByte =>
    obtain ⟨hp, rfl⟩ : s.responder.phase = .read ∧ .read = p := by simpa [I2cEvent.phaseAfter] using h
    exact ⟨_, execI2cRdByte_next s hp, hp⟩
  | stop => exact ⟨_, rfl, Option.some.inj h⟩

/-- A UART event completes and leaves the Responder (R75, R76). -/
theorem exec_uartEvent (e : UartEvent) (s : State) : ∃ t, exec e.instr s = .next t ∧ t.responder = s.responder := by
  cases e with
  | rxByte b =>
    rcases execRxByte_cases s b with ⟨-, -, he⟩ | ⟨-, p, he, -⟩
    · exact ⟨_, he, rfl⟩
    · exact ⟨_, he, rfl⟩
  | rxIdle => exact ⟨_, rfl, rfl⟩

theorem I2cEvent.instr_ne_reset (e : I2cEvent) : e.instr ≠ .reset := by
  cases e <;> nofun

theorem UartEvent.instr_ne_reset (e : UartEvent) : e.instr ≠ .reset := by
  cases e <;> nofun

/-- An event leaves the address and the wire activity to come, so its next state is within the contract if the
agreement holds there. -/
theorem withinContract_of_exec {i : Instr} {s t : State} (he : exec i s = .next t) (hl : s.cfg.legal = true)
    (hw : s.WireOnly) (hag : t.frontEnd.AgreesFrom t.responder.phase) : t.WithinContract :=
  ⟨by rwa [exec_cfg he], by rwa [State.WireOnly, exec_input he], State.busAgrees_iff.mpr hag⟩

/-- Once everything has arrived, what is taken completes and keeps the contract. -/
theorem State.WithinContract.take {u : State} (h : u.WithinContract) :
    u.take = .hold u ∨ ∃ i v t, u.take = .event i v ∧ exec i v = .next t ∧ t.WithinContract := by
  obtain ⟨hl, hw, hb⟩ := h
  obtain ⟨q, hq, hfit⟩ := State.busAgrees_iff.mp hb
  rcases u.take_cases with ⟨-, ht⟩ | ⟨-, e, rest, hi, ht⟩ | ⟨-, -, e, rest, -, ht⟩ | ⟨-, ht⟩
  · have he := execReset_next (u.withFrontEnd { u.frontEnd with resetReq := false }) hl
    exact .inr ⟨_, _, _, ht, he, withinContract_of_exec (i := .reset) he hl hw ⟨.none, rfl, rfl⟩⟩
  · rw [hi, phaseAfterAll_cons, Option.bind_eq_some_iff] at hq
    obtain ⟨p, hp, hrest⟩ := hq
    obtain ⟨t, he, htp⟩ := exec_i2cEvent_of_phaseAfter (s := u.withFrontEnd { u.frontEnd with i2cQ := rest }) hp
    refine .inr ⟨_, _, t, ht, he, withinContract_of_exec he hl hw ?_⟩
    rw [(exec_frontEnd he).1 e.instr_ne_reset, htp]
    exact ⟨q, hrest, hfit⟩
  · obtain ⟨t, he, htr⟩ := exec_uartEvent e (u.withFrontEnd { u.frontEnd with uartQ := rest })
    refine .inr ⟨_, _, t, ht, he, withinContract_of_exec he hl hw ?_⟩
    rw [(exec_frontEnd he).1 e.instr_ne_reset, htr]
    exact ⟨q, hq, hfit⟩
  · exact .inl ht

/-- Settles O52: what arrives keeps the agreement, and an event that agrees completes and keeps it. -/
theorem wireActivityIsNeverRefused : Obligations.WireActivityIsNeverRefused := by
  intro s h
  have ⟨hl, _, _⟩ := h
  obtain ⟨u, ha, hu⟩ := h.arrive
  have hfetch : s.fetch = u.take := by simp [State.fetch, ha, hl]
  rcases hu.take with ht | ⟨i, v, t, ht, he, hc⟩
  · exact ⟨u, by simp [step, hfetch, ht], hu⟩
  · exact ⟨t, by simp [step, hfetch, ht, he], hc⟩

/-- A block at power-up has nothing pending and nothing placed (R127). -/
theorem State.powerUp_withinContract {c : Config} (h : c.legal = true) : (State.powerUp c).WithinContract :=
  ⟨h, nofun, rfl⟩

/-- Settles O53: reset is power-up at the default parameters, whose address is legal. -/
theorem resetIsWithinContract : Obligations.ResetIsWithinContract :=
  ⟨State.powerUp_withinContract rfl, fun _ => State.powerUp_withinContract⟩

end Sys2Proof.Machine
end

section
/-! The UART events, case by case (R76 to R83, R86): the Parser's rules in the words of the spec. -/

namespace Sys2Proof.Machine

theorem exec_rxByte (b : Byte) (s : State) : exec (.rxByte b) s = execRxByte b s := rfl

theorem exec_rxIdle (s : State) : exec .rxIdle s = .next (s.withParser s.parser.endBurst) := rfl

theorem Parser.search_emptyWindow {p : Parser} (h : p.winV = false) (b : Byte) :
    p.search b = { p with win := b, winV := true } := by
  rcases p.search_cases b with ⟨-, hp⟩ | ⟨hv, -⟩ | ⟨hv, -⟩
  · exact hp
  all_goals simp [h] at hv

theorem Parser.search_marker {p : Parser} (h : p.winV = true) (hw : p.win = Config.marker0) :
    p.search Config.marker1 = { p with winV := false, cnt := 0, pstate := .consumingHeader } := by
  rcases p.search_cases Config.marker1 with ⟨hv, -⟩ | ⟨-, -, hp⟩ | ⟨-, hn, -⟩
  · simp [h] at hv
  · exact hp
  · exact absurd ⟨hw, rfl⟩ hn

theorem Parser.search_discard {p : Parser} {b : Byte} (h : p.winV = true)
    (hn : ¬(p.win = Config.marker0 ∧ b = Config.marker1)) : p.search b = { p with win := b } := by
  rcases p.search_cases b with ⟨hv, -⟩ | ⟨-, hm, -⟩ | ⟨-, -, hp⟩
  · simp [h] at hv
  · exact absurd hm hn
  · exact hp

/-- Settles O1: a byte while searching, with an empty window. -/
theorem rxByteFillsEmptyWindow : Obligations.RxByteFillsEmptyWindow := by
  intro s b hs hv
  rw [exec_rxByte, execRxByte_searching s b hs, Parser.search_emptyWindow hv]
  rfl

/-- Settles O2: the byte and the window are the marker pair. -/
theorem rxByteFindsMarker : Obligations.RxByteFindsMarker := by
  intro s hs hv hw
  have he := execRxByte_searching s Config.marker1 hs
  rw [Parser.search_marker hv hw] at he
  exact he

/-- Settles O3: the byte and a full window are not the marker pair. -/
theorem rxByteDiscardsOldestByte : Obligations.RxByteDiscardsOldestByte := by
  intro s b hs hv hn
  have hm : ¬(s.parser.win = Config.marker0 ∧ b = Config.marker1) := fun ⟨hw, hb⟩ => hn (Prod.ext hw hb)
  rw [exec_rxByte, execRxByte_searching s b hs, Parser.search_discard hv hm]
  rfl

/-- Settles O4: the header's two bytes are skipped whatever they are. -/
theorem rxByteSkipsReservedByte : Obligations.RxByteSkipsReservedByte := by
  intro s b hs
  rw [exec_rxByte, execRxByte_header s b hs]
  rcases s.parser.skipReserved_cases with ⟨h0, hk⟩ | ⟨h1, hk⟩ <;> rw [hk]
  · exact ⟨fun _ => rfl, fun h1 => absurd (h0.symm.trans h1) (by decide)⟩
  · exact ⟨fun h0 => absurd (h0.symm.trans h1) (by decide), fun _ => rfl⟩

/-- Settles O5: the three field states take their first byte alike. -/
theorem rxByteTakesHighByte : Obligations.RxByteTakesHighByte := by
  intro s b hs hc
  have hp : s.parser.pstate ≠ .searching ∧ s.parser.pstate ≠ .consumingHeader := by
    rcases hs with h | h | h <;> simp [h]
  exact execRxByte_high s b hp.1 hp.2 hc

/-- Settles O6: the second byte of PM1 and of PM2.5 closes the field in its staging register. -/
theorem rxByteStagesField : Obligations.RxByteStagesField := by
  intro s b hc
  rw [exec_rxByte, ← assemble_eq_append]
  exact ⟨fun hs => execRxByte_low1 s b hs hc, fun hs => execRxByte_low2 s b hs hc⟩

/-- Settles O7: the second byte of PM10 is the frame's last. -/
theorem rxByteCompletesFrame : Obligations.RxByteCompletesFrame := by
  intro s b hs hc
  rw [exec_rxByte, ← assemble_eq_append]
  exact execRxByte_last s b hs hc

/-- Settles O8: the end of a burst writes constants, so a second one writes them again. -/
theorem rxIdleDropsPartialFrame : Obligations.RxIdleDropsPartialFrame := by
  refine fun s => ⟨rfl, fun t ht => ?_⟩
  obtain rfl : s.withParser s.parser.endBurst = t := by simpa [exec_rxIdle] using ht
  rfl

theorem exists_uartEvent_of_fromUart {i : Instr} (h : fromUart i = true) : ∃ e : UartEvent, i = e.instr := by
  cases i with
  | rxByte b => exact ⟨.rxByte b, rfl⟩
  | rxIdle => exact ⟨.rxIdle, rfl⟩
  | _ => cases h

/-- Settles O9: a UART event completes, and writes what `eachElementHasOneWriter` leaves it. -/
theorem parserNeverStalls : Obligations.ParserNeverStalls := by
  intro s i hi
  obtain ⟨e, rfl⟩ := exists_uartEvent_of_fromUart hi
  obtain ⟨t, ht, hr⟩ := exec_uartEvent e s
  obtain ⟨hframe, -, -⟩ := eachElementHasOneWriter e.instr s t ht
  have ht' := hframe hi
  exact ⟨t, ht, hr, by rw [ht'], by rw [ht']⟩

end Sys2Proof.Machine
end

section
/-! The status output (R85, R87): inverted once for each completed frame. -/

namespace Sys2Proof.Machine

/-- Settles O14: of the next states of `exec_next_cases`, a completed frame inverts `status`, RESET clears it, and
every other keeps it. -/
theorem statusChangesOnlyAtCompletion : Obligations.StatusChangesOnlyAtCompletion := by
  intro i s t h
  rcases exec_next_cases h with ⟨b, rfl, h3, h1, rfl⟩ | ⟨b, p, rfl, hn, hp, rfl⟩ | ⟨rfl, rfl⟩ | ⟨rfl, rfl⟩ |
    ⟨rfl, rfl⟩ | ⟨d, rfl, -, rfl⟩ | ⟨rfl, -, rfl⟩ | ⟨rfl, rfl⟩ | ⟨rfl, -, rfl⟩
  · rw [publication_rxByte_last h3 h1]
    rfl
  · rw [publication_rxByte_other hn]
    exact hp
  all_goals rfl

/-- R87 from any level: each completed frame of a run without RESET inverts the level once. -/
theorem runEvents_statusOut {is : List Instr} {s t : State} (hr : Instr.reset ∉ is)
    (h : runEvents is s = .next t) :
    t.statusOut = (s.statusOut ^^ decide ((publications is s).length % 2 = 1)) := by
  induction is generalizing s with
  | nil =>
    obtain rfl : s = t := by simpa using h
    simp [publications]
  | cons i is ih =>
    obtain ⟨hi, his⟩ := List.ne_and_not_mem_of_not_mem_cons hr
    obtain ⟨u, hu, hrun⟩ := runEvents_cons_cases h
    have hfirst := statusChangesOnlyAtCompletion i s u hu
    rw [if_neg hi.symm] at hfirst
    rw [ih his hrun, hfirst, publications_cons_next hu]
    cases publication i s with
    | none => rfl
    | some v =>
      rcases Nat.mod_two_eq_zero_or_one (publications is u).length with hm | hm <;>
        simp [hm, Nat.add_mod]

/-- Settles O15: the count of R87, from level 0. -/
theorem statusLevelIsFrameParity : Obligations.StatusLevelIsFrameParity := by
  intro is s t hr h0 h
  rw [runEvents_statusOut hr h, h0, Bool.false_xor]

end Sys2Proof.Machine
end

section
/-! Resynchronisation (R88): eight bytes end any frame in progress, and a searching parser passes over garbage to the
next marker pair and publishes the frame behind it (R84). -/

namespace Sys2Proof.Machine

/-- Outside Searching the marker pair is consumed, and the frame's last byte is not (the table of R35). -/
theorem Parser.bytesConsumed_bounds {p : Parser} (h : p.pstate ≠ .searching) :
    2 ≤ p.bytesConsumed ∧ p.bytesConsumed < Config.frameLen := by
  have := p.cnt.isLt
  cases hp : p.pstate with
  | searching => exact absurd hp h
  | _ =>
    simp only [Parser.bytesConsumed, hp, Config.frameLen]
    omega

theorem runEvents_rxByte_cons {b : Byte} {is : List Instr} {s t : State} (h : execRxByte b s = .next t) :
    runEvents (.rxByte b :: is) s = runEvents is t :=
  runEvents_cons_next h

theorem exists_execRxByte_next (b : Byte) (s : State) : ∃ t, execRxByte b s = .next t :=
  let ⟨t, ht, _⟩ := exec_uartEvent (.rxByte b) s
  ⟨t, ht⟩

/-- As many bytes as the frame in progress lacks bring the parser to Searching. -/
theorem runEvents_reach_searching {bs : List Byte} {s : State} (hs : s.parser.pstate ≠ .searching)
    (hlack : Config.frameLen ≤ s.parser.bytesConsumed + bs.length) :
    ∃ k, k ≤ bs.length ∧ ∃ t, runEvents ((bs.take k).map .rxByte) s = .next t ∧ t.parser.pstate = .searching := by
  induction bs generalizing s with
  | nil => exact absurd hlack (Parser.bytesConsumed_bounds hs).2.not_ge
  | cons b bs ih =>
    obtain ⟨u, hu⟩ := exists_execRxByte_next b s
    rcases execRxByte_bytesConsumed hs hu with ⟨hn, -, hp, -⟩ | ⟨-, -, hp⟩
    · obtain ⟨k, hk, t, ht, htp⟩ := ih hp (by rw [List.length_cons] at hlack; omega)
      exact ⟨k + 1, Nat.succ_le_succ hk, t, (runEvents_rxByte_cons hu).trans ht, htp⟩
    · exact ⟨1, by simp, u, runEvents_rxByte_cons hu, hp⟩

/-- Settles O11: a frame in progress has its marker pair, so it lacks at most eight bytes. -/
theorem eightBytesReachSearching : Obligations.EightBytesReachSearching := by
  intro s bs hlen
  by_cases hs : s.parser.pstate = .searching
  · exact ⟨0, Nat.zero_le _, s, rfl, hs⟩
  · have hpair := (Parser.bytesConsumed_bounds hs).1
    rw [← hlen]
    exact runEvents_reach_searching hs (by simp only [Config.frameLen, hlen]; omega)

/-- The marker pair stands in a run of bytes when it is a piece of it (R60). -/
theorem hasMarker_iff_infix {l : List Byte} : hasMarker l = true ↔ [Config.marker0, Config.marker1] <:+: l := by
  induction l using hasMarker.induct with
  | case1 => simp [hasMarker]
  | case2 a => simp [hasMarker, List.infix_cons_iff]
  | case3 a b rest ih =>
    rw [hasMarker, Bool.or_eq_true, ih, List.infix_cons_iff (a := a)]
    simp [@eq_comm _ a, @eq_comm _ b]

theorem hasMarker_eq_false_of_infix {l m : List Byte} (h : l <:+: m) (hm : hasMarker m = false) :
    hasMarker l = false := by
  rw [← Bool.not_eq_true, hasMarker_iff_infix] at *
  exact fun hl => hm (hl.trans h)

/-- The Parser with the byte `b` in its window. -/
def Parser.holding (p : Parser) (b : Byte) : Parser := { p with win := b, winV := true }

/-- A byte that makes no marker pair with the window takes the window's place (R77, R79). -/
theorem Parser.search_of_noMarker {p : Parser} {b : Byte} (h : hasMarker (p.window ++ [b]) = false) :
    p.search b = p.holding b := by
  cases hv : p.winV with
  | false => exact Parser.search_emptyWindow hv b
  | true =>
    have hn : ¬(p.win = Config.marker0 ∧ b = Config.marker1) := by
      simpa [Parser.window, hv, hasMarker] using h
    rw [Parser.search_discard hv hn, Parser.holding, ← hv]

theorem execRxByte_of_noMarker {b : Byte} {s : State} (hs : s.parser.pstate = .searching)
    (h : hasMarker (s.parser.window ++ [b]) = false) :
    execRxByte b s = .next (s.withParser (s.parser.holding b)) := by
  rw [execRxByte_searching s b hs, Parser.search_of_noMarker h]

/-- A searching parser passes over bytes that hold no marker pair, and keeps the last one in its window (R88). -/
theorem runEvents_garbage {g : List Byte} {b : Byte} {s : State} (hs : s.parser.pstate = .searching)
    (h : hasMarker (s.parser.window ++ g ++ [b]) = false) :
    runEvents ((g ++ [b]).map .rxByte) s = .next (s.withParser (s.parser.holding b)) := by
  induction g generalizing s with
  | nil =>
    rw [List.append_nil] at h
    exact runEvents_rxByte_cons (execRxByte_of_noMarker hs h)
  | cons a g ih =>
    have hfirst : hasMarker (s.parser.window ++ [a]) = false :=
      hasMarker_eq_false_of_infix ⟨[], g ++ [b], by simp⟩ h
    have hrest : hasMarker ((s.parser.holding a).window ++ g ++ [b]) = false :=
      hasMarker_eq_false_of_infix ⟨s.parser.window, [], by simp [Parser.holding, Parser.window]⟩ h
    exact (runEvents_rxByte_cons (execRxByte_of_noMarker hs hfirst)).trans
      (ih (s := s.withParser (s.parser.holding a)) hs hrest)

/-- The state that the last two bytes of a frame leave: the staged values and theirs published, the window empty,
`status` inverted (R83). -/
def State.afterFrame (s : State) (v1 v2 : Word) (h l : Byte) : State :=
  (s.withRegs (s.regs.publish v1 v2 (assemble h l))).withParser
    { s.parser with
      pstate := .searching, cnt := 0, winV := false, hi := h, stage1 := v1, stage2 := v2,
      status := !s.parser.status }

/-- What a frame leaves in the store, as R84 writes it. -/
theorem State.afterFrame_regs (s : State) (h1 l1 h2 l2 h3 l3 : Byte) :
    (s.afterFrame (assemble h1 l1) (assemble h2 l2) h3 l3).regs =
      { id := s.regs.id, pm1 := h1 ++ l1, pm25 := h2 ++ l2, pm10 := h3 ++ l3 } := by
  simp only [← assemble_eq_append]
  rfl

/-! What is left of a frame, from its last field back to its first marker byte. -/

theorem runEvents_field3 {s : State} (hs : s.parser.pstate = .consumingField3) (hc : s.parser.cnt = 0)
    (h l : Byte) :
    runEvents [.rxByte h, .rxByte l] s = .next (s.afterFrame s.parser.stage1 s.parser.stage2 h l) := by
  have hhigh := execRxByte_high s h (by simp [hs]) (by simp [hs]) hc
  have hlast := execRxByte_last (s.withParser (s.parser.takeHigh h)) l hs rfl
  exact (runEvents_rxByte_cons hhigh).trans (runEvents_rxByte_cons hlast)

theorem runEvents_field2 {s : State} (hs : s.parser.pstate = .consumingField2) (hc : s.parser.cnt = 0)
    (h2 l2 h3 l3 : Byte) :
    runEvents ([h2, l2, h3, l3].map .rxByte) s = .next (s.afterFrame s.parser.stage1 (assemble h2 l2) h3 l3) := by
  have hhigh := execRxByte_high s h2 (by simp [hs]) (by simp [hs]) hc
  have hlow := execRxByte_low2 (s.withParser (s.parser.takeHigh h2)) l2 hs rfl
  exact (runEvents_rxByte_cons hhigh).trans <| (runEvents_rxByte_cons hlow).trans <|
    runEvents_field3 rfl rfl h3 l3

theorem runEvents_field1 {s : State} (hs : s.parser.pstate = .consumingField1) (hc : s.parser.cnt = 0)
    (h1 l1 h2 l2 h3 l3 : Byte) :
    runEvents ([h1, l1, h2, l2, h3, l3].map .rxByte) s =
      .next (s.afterFrame (assemble h1 l1) (assemble h2 l2) h3 l3) := by
  have hhigh := execRxByte_high s h1 (by simp [hs]) (by simp [hs]) hc
  have hlow := execRxByte_low1 (s.withParser (s.parser.takeHigh h1)) l1 hs rfl
  exact (runEvents_rxByte_cons hhigh).trans <| (runEvents_rxByte_cons hlow).trans <|
    runEvents_field2 rfl rfl h2 l2 h3 l3

theorem runEvents_header {s : State} (hs : s.parser.pstate = .consumingHeader) (hc : s.parser.cnt = 0)
    (r0 r1 h1 l1 h2 l2 h3 l3 : Byte) :
    runEvents ([r0, r1, h1, l1, h2, l2, h3, l3].map .rxByte) s =
      .next (s.afterFrame (assemble h1 l1) (assemble h2 l2) h3 l3) := by
  have hfirst := (rxByteSkipsReservedByte s r0 hs).1 hc
  have hsecond := (rxByteSkipsReservedByte (s.withParser { s.parser with cnt := 1 }) r1 hs).2 rfl
  exact (runEvents_cons_next hfirst).trans <| (runEvents_cons_next hsecond).trans
    (runEvents_field1 rfl rfl h1 l1 h2 l2 h3 l3)

/-- With the frame's first byte in the window, the rest of the frame publishes it whole (R84). -/
theorem runEvents_marker {s : State} (hs : s.parser.pstate = .searching) (hv : s.parser.winV = true)
    (hw : s.parser.win = 0x42) (r0 r1 h1 l1 h2 l2 h3 l3 : Byte) :
    runEvents ([0x4D, r0, r1, h1, l1, h2, l2, h3, l3].map .rxByte) s =
      .next (s.afterFrame (assemble h1 l1) (assemble h2 l2) h3 l3) :=
  (runEvents_cons_next (rxByteFindsMarker s hs hv hw)).trans (runEvents_header rfl rfl r0 r1 h1 l1 h2 l2 h3 l3)

/-- Settles O12: the garbage leaves the frame's first byte in the window, and the rest of the frame follows it. -/
theorem frameAfterGarbageIsPublished : Obligations.FrameAfterGarbageIsPublished := by
  intro s g r0 r1 h1 l1 h2 l2 h3 l3 hs hm
  refine ⟨(s.withParser (s.parser.holding 0x42)).afterFrame (assemble h1 l1) (assemble h2 l2) h3 l3, ?_,
    State.afterFrame_regs _ h1 l1 h2 l2 h3 l3, rfl, rfl, rfl, rfl, rfl, rfl⟩
  rw [List.append_cons, List.map_append, runEvents_append (runEvents_garbage hs hm)]
  exact runEvents_marker (s := s.withParser (s.parser.holding 0x42)) hs rfl rfl r0 r1 h1 l1 h2 l2 h3 l3

end Sys2Proof.Machine
end

section
/-! The I2C events, one by one (R92, R93, R94, R98, R101, R104): the Responder's rules in the words of the spec. -/

namespace Sys2Proof.Machine

/-- Settles O16: what an address match writes (R92). -/
theorem addressForWriteEmptiesQueue : Obligations.AddressForWriteEmptiesQueue := fun _ => rfl

/-- Settles O17: what an address match writes (R93). -/
theorem addressForReadEmptiesQueue : Obligations.AddressForReadEmptiesQueue := fun _ => rfl

/-- Settles O18: what a STOP writes (R104). -/
theorem stopEndsTransfer : Obligations.StopEndsTransfer := fun _ => rfl

theorem execI2cWrByte_refused {s : State} (d : Byte) (h : s.responder.phase ≠ .write) :
    execI2cWrByte d s = .refused .wrongDirection := if_neg h

/-- Settles O19: the register-select in its direction, and its refusal. -/
theorem registerSelectStoresIndex : Obligations.RegisterSelectStoresIndex :=
  fun s d => ⟨execI2cWrByte_next s d, execI2cWrByte_refused d⟩

theorem execI2cRdByte_refused {s : State} (h : s.responder.phase ≠ .read) :
    execI2cRdByte s = .refused .wrongDirection := if_neg h

/-- An empty queue is filled from one sample, and its high byte is the next to go (R100). -/
theorem State.nextByte_of_empty {s : State} (h : s.responder.txq = []) :
    s.nextByte = (highByte s.requestValue, [lowByte s.requestValue]) := by
  simp only [State.nextByte, h]

/-- A filled queue gives its head and samples nothing (R101). -/
theorem State.nextByte_of_queued {s : State} {b : Byte} {rest : List Byte} (h : s.responder.txq = b :: rest) :
    s.nextByte = (b, rest) := by
  simp only [State.nextByte, h]

/-- A read clock returns the next byte and leaves the rest queued (R101). -/
theorem execI2cRdByte_of_nextByte {s : State} {b : Byte} {rest : List Byte} (hp : s.responder.phase = .read)
    (hn : s.nextByte = (b, rest)) :
    execI2cRdByte s = .next { s with
      responder := { s.responder with txq := rest }, returned := s.returned ++ [b] } := by
  rw [execI2cRdByte_next s hp, State.serveByte, hn]
  rfl

/-- Settles O20: the read clock with an empty queue, with a filled one, and outside its direction. -/
theorem readByteServesQueueOrSample : Obligations.ReadByteServesQueueOrSample := by
  refine fun s => ⟨fun hp hq v hv => ?_, fun b rest hp hq => ?_, execI2cRdByte_refused⟩
  · obtain rfl : v = s.requestValue := hv
    exact execI2cRdByte_of_nextByte hp (State.nextByte_of_empty hq)
  · exact execI2cRdByte_of_nextByte hp (State.nextByte_of_queued hq)

/-- An index that names no slot reads as the sentinel (R98). -/
theorem RegStore.value_unmapped {i : Byte} (r : RegStore) (h : Config.nreg ≤ i.toNat) :
    r.value i = Config.sentinel := by
  have hne (k : Byte) (hk : k.toNat < Config.nreg) : i ≠ k := by
    rintro rfl
    omega
  simp only [RegStore.value, hne 0x00 (by decide), hne 0x01 (by decide), hne 0x02 (by decide),
    hne 0x03 (by decide), if_false]

/-- Settles O21: the four slots of the map, and the sentinel past them. -/
theorem registerMapDispatch : Obligations.RegisterMapDispatch :=
  fun r => ⟨rfl, rfl, rfl, rfl, fun _ => r.value_unmapped⟩

end Sys2Proof.Machine
end

section
/-! Reads over several events (R96, R99, R102, R103, R106, R107): what the queue and the selection hold between the
bytes of a transfer. -/

namespace Sys2Proof.Machine

/-- In Idle a read-request samples the sentinel (R99). -/
theorem State.requestValue_idle {s : State} (h : s.responder.selValid = false) :
    s.requestValue = Config.sentinel := by
  simp [State.requestValue, h]

/-- Settles O22: the pair of `runEvents_readPair` is the two bytes of the sentinel. -/
theorem readBeforeSelectReturnsSentinel : Obligations.ReadBeforeSelectReturnsSentinel := by
  intro s hv hp hq
  rw [runEvents_readPair hp hq, State.requestValue_idle hv]
  rfl

/-- Settles O24, by induction on the number of pairs: a pair leaves the queue empty and the selection and the store
as they were, so the next pair samples the same value. -/
theorem streamingRepeatsRegister : Obligations.StreamingRepeatsRegister := by
  intro k s hp hq
  induction k generalizing s with
  | zero => simp
  | succ k ih =>
    have hsplit : List.replicate (2 * (k + 1)) Instr.i2cRdByte =
        [.i2cRdByte, .i2cRdByte] ++ List.replicate (2 * k) .i2cRdByte := rfl
    rw [hsplit, runEvents_append (runEvents_readPair hp hq)]
    refine (ih { s with returned := s.returned ++ [highByte s.requestValue, lowByte s.requestValue] } hp hq).trans ?_
    rw [List.append_assoc]
    rfl

/-- A run of UART events completes, and leaves the Responder and the returned bytes (R75). -/
theorem runEvents_fromUart {is : List Instr} (s : State) (h : ∀ i ∈ is, fromUart i = true) :
    ∃ t, runEvents is s = .next t ∧ t.responder = s.responder ∧ t.returned = s.returned := by
  induction is generalizing s with
  | nil => exact ⟨s, rfl, rfl, rfl⟩
  | cons i is ih =>
    obtain ⟨hi, his⟩ := List.forall_mem_cons.mp h
    obtain ⟨u, hu, hresp, hret, -⟩ := parserNeverStalls s i hi
    obtain ⟨t, ht, hresp', hret'⟩ := ih u his
    exact ⟨t, (runEvents_cons_next hu).trans ht, hresp'.trans hresp, hret'.trans hret⟩

/-- Settles O23: the low byte of the sample waits in the queue, which no UART event writes. -/
theorem readPairComesFromOneSample : Obligations.ReadPairComesFromOneSample := by
  intro s is hp hq his
  obtain ⟨u, hrun, hresp, hret⟩ := runEvents_fromUart s.serveByte his
  have hphase : u.responder.phase = .read := by rw [hresp]; exact hp
  have hqueue : u.responder.txq = [lowByte s.requestValue] := by simp [hresp, State.nextByte_of_empty hq]
  have hfirst : exec .i2cRdByte s = .next s.serveByte := execI2cRdByte_next s hp
  have hsecond : exec .i2cRdByte u = .next u.serveByte := execI2cRdByte_next u hphase
  refine ⟨u.serveByte, ?_, ?_, ?_⟩
  · rw [runEvents_cons_next hfirst, runEvents_append hrun, runEvents_cons_next hsecond, runEvents_nil]
  · simp [State.nextByte_of_queued hqueue, hresp, ← hq]
  · simp [State.nextByte_of_queued hqueue, hret, State.nextByte_of_empty hq]

/-- Only a register-select and RESET write the selection (R96). -/
theorem exec_selection {i : Instr} {s t : State} (hr : i ≠ .reset) (hw : ∀ d, i ≠ .i2cWrByte d)
    (h : exec i s = .next t) :
    t.responder.sel = s.responder.sel ∧ t.responder.selValid = s.responder.selValid := by
  rcases exec_next_cases h with ⟨b, -, -, -, rfl⟩ | ⟨b, p, -, -, -, rfl⟩ | ⟨-, rfl⟩ | ⟨-, rfl⟩ | ⟨-, rfl⟩ |
    ⟨d, hi, -, -⟩ | ⟨-, -, rfl⟩ | ⟨-, rfl⟩ | ⟨hi, -, -⟩
  iterate 5 exact ⟨rfl, rfl⟩
  · exact absurd hi (hw d)
  iterate 2 exact ⟨rfl, rfl⟩
  · exact absurd hi hr

/-- Settles O25, by induction on the run. -/
theorem selectionPersists : Obligations.SelectionPersists := by
  intro is s t his h
  induction is generalizing s with
  | nil =>
    obtain rfl : s = t := by simpa using h
    exact ⟨rfl, rfl⟩
  | cons i is ih =>
    obtain ⟨⟨hr, hw⟩, hrest⟩ := List.forall_mem_cons.mp his
    obtain ⟨u, hu, hrun⟩ := runEvents_cons_cases h
    obtain ⟨hsel, hvalid⟩ := ih u hrest hrun
    obtain ⟨hsel', hvalid'⟩ := exec_selection hr hw hu
    exact ⟨hsel.trans hsel', hvalid.trans hvalid'⟩

/-- What a read clock returns and leaves queued: two bytes if it filled the queue, else what the queue held (R102). -/
theorem State.serveByte_cases (s : State) :
    ∃ b, s.serveByte.returned = s.returned ++ [b] ∧
      (s.responder.txq = [] → ([b] ++ s.serveByte.responder.txq).length = 2) ∧
      (s.responder.txq ≠ [] → s.responder.txq = b :: s.serveByte.responder.txq) := by
  refine ⟨s.nextByte.1, rfl, ?_⟩
  rcases s.nextByte_cases with ⟨hq, hn⟩ | ⟨b, rest, hq, hn⟩ <;> simp [hq, hn]

/-- Settles O27: the read clock is `State.serveByte_cases`; the other events write the queue only where R102 names
them. -/
theorem readRequestIsTwoBytes : Obligations.ReadRequestIsTwoBytes := by
  intro i s t h
  rcases exec_next_cases h with ⟨b, rfl, -, -, rfl⟩ | ⟨b, p, rfl, -, -, rfl⟩ | ⟨rfl, rfl⟩ | ⟨rfl, rfl⟩ | ⟨rfl, rfl⟩ |
    ⟨d, rfl, -, rfl⟩ | ⟨rfl, -, rfl⟩ | ⟨rfl, rfl⟩ | ⟨rfl, -, rfl⟩
  iterate 3 exact ⟨nofun, fun hne => absurd rfl hne⟩
  iterate 2 exact ⟨nofun, fun _ => by simp⟩
  · exact ⟨nofun, fun hne => absurd rfl hne⟩
  · exact ⟨fun _ => s.serveByte_cases, fun _ => by simp⟩
  iterate 2 exact ⟨nofun, fun _ => by simp⟩

end Sys2Proof.Machine
end

section
/-! The order in which a step takes what is pending (R105, R111, R112, R123). -/

namespace Sys2Proof.Machine

theorem State.take_reset {s : State} (hr : s.frontEnd.resetReq = true) :
    s.take = .event .reset (s.withFrontEnd { s.frontEnd with resetReq := false }) := if_pos hr

theorem State.take_i2c {s : State} {e : I2cEvent} {rest : List I2cEvent} (hr : s.frontEnd.resetReq = false)
    (hi : s.frontEnd.i2cQ = e :: rest) :
    s.take = .event e.instr (s.withFrontEnd { s.frontEnd with i2cQ := rest }) := by
  simp [State.take, hr, hi]

theorem State.take_uart {s : State} {e : UartEvent} {rest : List UartEvent} (hr : s.frontEnd.resetReq = false)
    (hi : s.frontEnd.i2cQ = []) (hu : s.frontEnd.uartQ = e :: rest) :
    s.take = .event e.instr (s.withFrontEnd { s.frontEnd with uartQ := rest }) := by
  simp [State.take, hr, hi, hu]

/-- With nothing arriving, a step is `exec` of the event that is taken. -/
theorem step_of_take_event {s v : State} {i : Instr} (hl : s.cfg.legal = true) (hin : s.input = [])
    (ht : s.take = .event i v) : step s = exec i v := by
  simp [step, State.fetch_of_no_input hl hin, ht]

/-- Settles O42: what is taken in each case, and nothing when nothing is pending. -/
theorem stepTakesPendingByPriority : Obligations.StepTakesPendingByPriority := by
  refine fun s hl hin => ⟨fun hr => ?_, fun e rest hr hi => ?_, fun e rest hr hi hu => ?_, fun hq => ?_⟩
  · exact step_of_take_event hl hin (State.take_reset hr)
  · exact step_of_take_event hl hin (State.take_i2c hr hi)
  · exact step_of_take_event hl hin (State.take_uart hr hi hu)
  · simp [step, State.fetch_of_no_input hl hin, State.take_quiet hq]

end Sys2Proof.Machine
end

section
/-! The refusal of a run with an illegal address (R114, R129): an illegal address refuses every step, and with a legal
one neither what arrives nor the event that is taken is refused so. -/

namespace Sys2Proof.Machine

/-- A slot is refused for a reserved word alone (R114). -/
theorem FrontEnd.deliverAll_error {c : Config} {f : FrontEnd} {slot : List Stimulus} {r : Refusal}
    (h : f.deliverAll c slot = .error r) : ∃ e, r = .reservedEvent e := by
  induction slot generalizing f with
  | nil => cases h
  | cons x slot ih =>
    cases hx : f.deliver c x with
    | ok f' => exact ih (f := f') (by simpa [FrontEnd.deliverAll, hx] using h)
    | error q =>
      obtain ⟨-, -, w, -, rfl⟩ := FrontEnd.deliver_error hx
      exact ⟨w, by simpa [FrontEnd.deliverAll, hx] using h.symm⟩

theorem State.arrive_error {s : State} {r : Refusal} (h : s.arrive = .error r) : ∃ e, r = .reservedEvent e := by
  unfold State.arrive at h
  split at h
  · cases h
  · split at h
    · cases h
    · rename_i hd
      cases h
      exact FrontEnd.deliverAll_error hd

/-- Once everything has arrived, a step holds or takes an event. -/
theorem State.take_hold_or_event (u : State) : (u.Quiet ∧ u.take = .hold u) ∨ ∃ i v, u.take = .event i v := by
  rcases u.take_cases with ⟨-, ht⟩ | ⟨-, _, _, -, ht⟩ | ⟨-, -, _, _, -, ht⟩ | ⟨hq, ht⟩
  iterate 3 exact .inr ⟨_, _, ht⟩
  exact .inl ⟨hq, ht⟩

theorem step_of_not_legal {s : State} (hl : s.cfg.legal ≠ true) : step s = .refused .badConfig := by
  simp [step, State.fetch, hl]

/-- A step that is refused with a legal address is refused for what arrives or for the event that is taken. -/
theorem step_refused_cases {s : State} {r : Refusal} (hl : s.cfg.legal = true) (h : step s = .refused r) :
    s.arrive = .error r ∨ ∃ u i v, s.arrive = .ok u ∧ u.take = .event i v ∧ exec i v = .refused r := by
  cases ha : s.arrive with
  | error q => exact .inl (by simpa [step, State.fetch, hl, ha] using h)
  | ok u =>
    have hfetch : s.fetch = u.take := by simp [State.fetch, hl, ha]
    rcases u.take_hold_or_event with ⟨-, ht⟩ | ⟨i, v, ht⟩
    · simp [step, hfetch, ht] at h
    · exact .inr ⟨u, i, v, rfl, ht, by simpa [step, hfetch, ht] using h⟩

/-- An event is refused as BadConfig only with an illegal address (R126). -/
theorem not_legal_of_exec_badConfig {i : Instr} {s : State} (h : exec i s = .refused .badConfig) :
    s.cfg.legal ≠ true := by
  rcases exec_refused_cases h with ⟨-, -, -, hr⟩ | ⟨-, -, hr⟩ | ⟨-, hl, -⟩
  · cases hr
  · cases hr
  · exact hl

/-- A step is refused as BadConfig exactly if the address is illegal (R114, R129). -/
theorem step_badConfig_iff {s : State} : step s = .refused .badConfig ↔ s.cfg.legal ≠ true := by
  refine ⟨fun h hl => ?_, step_of_not_legal⟩
  rcases step_refused_cases hl h with ha | ⟨u, i, v, ha, ht, he⟩
  · obtain ⟨e, hr⟩ := State.arrive_error ha
    cases hr
  · refine not_legal_of_exec_badConfig he ?_
    rw [State.take_event ht, State.arrive_ok ha]
    exact hl

/-- Settles O34: the address is illegal exactly if it lies outside the range. -/
theorem illegalAddressIsRefused : Obligations.IllegalAddressIsRefused := by
  intro s
  rw [Ne, step_badConfig_iff, Ne, Config.legal_iff]
  omega

end Sys2Proof.Machine
end

section
/-! Events that arrive together (R111, R112, R126): an I2C event goes before a UART event, and RESET before all. -/

namespace Sys2Proof.Machine

theorem exists_i2cEvent_of_fromI2c {i : Instr} (h : fromI2c i = true) : ∃ e : I2cEvent, i = e.instr := by
  cases i with
  | i2cAddrW => exact ⟨.addrW, rfl⟩
  | i2cAddrR => exact ⟨.addrR, rfl⟩
  | i2cWrByte d => exact ⟨.wrByte d, rfl⟩
  | i2cRdByte => exact ⟨.rdByte, rfl⟩
  | i2cStop => exact ⟨.stop, rfl⟩
  | _ => cases h

theorem FrontEnd.pend_uartEvent (f : FrontEnd) (x : UartEvent) : f.pend x.instr = f.pendUart x := by
  cases x <;> rfl

theorem FrontEnd.pend_i2cEvent (f : FrontEnd) (e : I2cEvent) : f.pend e.instr = f.pendI2c e := by
  cases e <;> rfl

/-- Two event words arrive one after the other. -/
theorem FrontEnd.deliverAll_two_words {a b : Word} {i j : Instr} (c : Config) (f : FrontEnd) (ha : decode a = .ok i)
    (hb : decode b = .ok j) : f.deliverAll c [.word a, .word b] = .ok ((f.pend i).pend j) := by
  simp [FrontEnd.deliverAll, FrontEnd.deliver_word, ha, hb]

/-- Where a slot arrives whole, a step is `exec` of the event that is then taken. -/
theorem step_of_deliverAll_take {s v : State} {slot : List Stimulus} {rest : List (List Stimulus)} {f : FrontEnd}
    {i : Instr} (hl : s.cfg.legal = true) (hin : s.input = slot :: rest)
    (hd : s.frontEnd.deliverAll s.cfg slot = .ok f)
    (ht : ((s.withFrontEnd f).withInput rest).take = .event i v) : step s = exec i v := by
  simp [step, State.fetch_of_deliverAll hl hin hd, ht]

/-- Settles O43: in either order of arrival each event waits in the queue of its own source. -/
theorem coincidentI2cEventIsTakenFirst : Obligations.CoincidentI2cEventIsTakenFirst := by
  intro s u c i x rest hl ⟨hr, hi, hu⟩ hdu hdc hic hin
  obtain ⟨e, rfl⟩ := exists_i2cEvent_of_fromI2c hic
  have harrive : ∃ slot, s.input = slot :: rest ∧
      s.frontEnd.deliverAll s.cfg slot = .ok ((s.frontEnd.pendI2c e).pendUart x) := by
    rcases hin with hin | hin
    · exact ⟨_, hin, by rw [FrontEnd.deliverAll_two_words _ _ hdu hdc, FrontEnd.pend_i2cEvent,
        FrontEnd.pend_uartEvent]; rfl⟩
    · exact ⟨_, hin, by rw [FrontEnd.deliverAll_two_words _ _ hdc hdu, FrontEnd.pend_i2cEvent,
        FrontEnd.pend_uartEvent]⟩
  obtain ⟨slot, hslot, hd⟩ := harrive
  rw [step_of_deliverAll_take hl hslot hd (State.take_i2c (e := e) (rest := []) (by simpa using hr) (by simp [hi]))]
  simp [State.withFrontEnd, State.withInput, FrontEnd.pendUart, FrontEnd.pendI2c, hi, hu]

/-- An asserted reset stays asserted while events become pending (R111). -/
theorem FrontEnd.pend_keeps_resetReq {f : FrontEnd} (i : Instr) (h : f.resetReq = true) :
    (f.pend i).resetReq = true := by
  cases i with
  | reset => rfl
  | _ => exact h

/-- An asserted reset stays asserted, whatever arrives (R111). -/
theorem FrontEnd.deliver_keeps_resetReq {c : Config} {f f' : FrontEnd} {x : Stimulus} (h : f.resetReq = true)
    (hd : f.deliver c x = .ok f') : f'.resetReq = true := by
  cases x with
  | word e =>
    rcases decode_cases e with ⟨r, -, -, he⟩ | he
    · obtain rfl : f.pend (r.event (wordData e)) = f' := by simpa [FrontEnd.deliver, he] using hd
      exact FrontEnd.pend_keeps_resetReq _ h
    · simp [FrontEnd.deliver, he] at hd
  | resetInput => cases hd; rfl
  | uartChar d b => cases hd; exact h
  | uartIdle n =>
    cases hd
    unfold FrontEnd.uartIdle
    split
    · exact h
    · split_ifs <;> exact h
  | i2cStart a => cases hd; unfold FrontEnd.i2cStart; split_ifs <;> exact h
  | i2cWrite n => cases hd; unfold FrontEnd.i2cWrite; split <;> exact h
  | i2cRead => cases hd; unfold FrontEnd.i2cRead; split <;> exact h
  | i2cMasterAck a => cases hd; exact h
  | i2cStop => cases hd; unfold FrontEnd.i2cStop; split <;> exact h

/-- The reset input and its event word assert the reset (R126). -/
theorem FrontEnd.deliver_asserts_reset {x : Stimulus} (c : Config) (f : FrontEnd)
    (hx : x = .resetInput ∨ x = .word 0x8000) : f.deliver c x = .ok f.pendReset := by
  rcases hx with rfl | rfl
  · rfl
  · exact FrontEnd.deliver_word c f decode_8000

/-- A slot without a reserved word arrives whole, and the reset is asserted then if it was before or is asserted in the
slot. -/
theorem FrontEnd.deliverAll_resetReq {c : Config} {f : FrontEnd} {slot : List Stimulus}
    (hw : ∀ e, Stimulus.word e ∈ slot → wordWellFormed e = true)
    (h : f.resetReq = true ∨ ∃ x ∈ slot, x = .resetInput ∨ x = .word 0x8000) :
    ∃ f', f.deliverAll c slot = .ok f' ∧ f'.resetReq = true := by
  induction slot generalizing f with
  | nil => exact ⟨f, rfl, by simpa using h⟩
  | cons x slot ih =>
    obtain ⟨f₁, hd⟩ := f.deliver_ok c (x := x) (by rintro e rfl; exact hw e (by simp))
    have h₁ : f₁.resetReq = true ∨ ∃ y ∈ slot, y = .resetInput ∨ y = .word 0x8000 := by
      rcases h with hf | ⟨y, hy, hreset⟩
      · exact .inl (FrontEnd.deliver_keeps_resetReq hf hd)
      · rcases List.mem_cons.mp hy with rfl | hy
        · obtain rfl : f.pendReset = f₁ := by simpa [FrontEnd.deliver_asserts_reset c f hreset] using hd
          exact .inl rfl
        · exact .inr ⟨y, hy, hreset⟩
    obtain ⟨f', hall, hf'⟩ := ih (fun e he => hw e (by simp [he])) h₁
    exact ⟨f', by simpa [FrontEnd.deliverAll, hd] using hall, hf'⟩

/-- Settles O44: the slot leaves the reset asserted, and a step takes it before all else. -/
theorem resetDiscardsPendingEvents : Obligations.ResetDiscardsPendingEvents := by
  intro s slot rest hl hin hreset hw
  obtain ⟨f, hd, hr⟩ := FrontEnd.deliverAll_resetReq hw
    (.inr (hreset.elim (⟨_, ·, .inl rfl⟩) (⟨_, ·, .inr rfl⟩)))
  rw [step_of_deliverAll_take hl hin hd (State.take_reset hr)]
  exact execReset_next _ hl

end Sys2Proof.Machine
end

section
/-! How many events are pending (R105, R111): with nothing arriving every step takes one, so they are all taken. -/

namespace Sys2Proof.Machine

/-- The number of events pending at all sources, an asserted reset among them (R110, R111). -/
def FrontEnd.pending (f : FrontEnd) : Nat := f.resetReq.toNat + f.i2cQ.length + f.uartQ.length

theorem State.quiet_iff_pending {s : State} : s.Quiet ↔ s.frontEnd.pending = 0 := by
  simp [FrontEnd.pending, and_assoc]

/-- Taking an event makes one fewer pending (R105). -/
theorem State.take_pending {u v : State} {i : Instr} (h : u.take = .event i v) :
    v.frontEnd.pending + 1 = u.frontEnd.pending := by
  rcases u.take_cases with ⟨hr, ht⟩ | ⟨hr, e, rest, hi, ht⟩ | ⟨hr, hi, e, rest, hu, ht⟩ | ⟨-, ht⟩ <;>
    rw [ht] at h <;> cases h
  · simp [FrontEnd.pending, hr]; omega
  · simp [FrontEnd.pending, hi]; omega
  · simp [FrontEnd.pending, hu]; omega

/-- Events make nothing pending (R111). -/
theorem exec_pending_le {i : Instr} {s t : State} (h : exec i s = .next t) :
    t.frontEnd.pending ≤ s.frontEnd.pending := by
  obtain ⟨hkeep, hreset⟩ := exec_frontEnd h
  by_cases hi : i = .reset
  · rw [hreset hi]
    exact Nat.zero_le _
  · rw [hkeep hi]

/-- With nothing arriving, a step from within the contract answers a next state with one event fewer pending, if there
was any. -/
theorem State.WithinContract.step_pending {s : State} (hc : s.WithinContract) (hin : s.input = []) :
    ∃ t, step s = .next t ∧ t.WithinContract ∧ t.input = [] ∧ t.frontEnd.pending ≤ s.frontEnd.pending - 1 := by
  have ⟨hl, _, _⟩ := hc
  obtain ⟨t, hs, hct⟩ := wireActivityIsNeverRefused s hc
  refine ⟨t, hs, hct, ?_⟩
  rcases s.take_hold_or_event with ⟨hq, ht⟩ | ⟨i, v, ht⟩
  · obtain rfl : s = t := by simpa [step, State.fetch_of_no_input hl hin, ht] using hs
    exact ⟨hin, by simp [State.quiet_iff_pending.mp hq]⟩
  · have he : exec i v = .next t := (step_of_take_event hl hin ht).symm.trans hs
    have hfewer := State.take_pending ht
    have hkeep := exec_pending_le he
    have hinput : v.input = s.input := by rw [State.take_event ht]; rfl
    exact ⟨by rw [exec_input he, hinput, hin], by omega⟩

/-- With nothing arriving, as many steps as events are pending leave none pending. -/
theorem core_run_leaves_quiet {n : Nat} {s : State} (hc : s.WithinContract) (hin : s.input = [])
    (hn : s.frontEnd.pending ≤ n) : ∃ t, Host.Core.run core n s = .next t ∧ t.Quiet := by
  induction n generalizing s with
  | zero => exact ⟨s, rfl, State.quiet_iff_pending.mpr (Nat.le_zero.mp hn)⟩
  | succ n ih =>
    obtain ⟨u, hs, hcu, hinu, hfewer⟩ := hc.step_pending hin
    rw [core_run_succ_next hs]
    exact ih hcu hinu (by omega)

/-- Settles O46: the asserted reset counts for at most one of the pending events. -/
theorem pendingEventsAreAllTaken : Obligations.PendingEventsAreAllTaken := by
  intro s hc hin
  have hreset := Bool.toNat_le s.frontEnd.resetReq
  exact core_run_leaves_quiet hc hin (by unfold FrontEnd.pending; omega)

end Sys2Proof.Machine
end

section
/-! RESET (R34, R126, R127): it answers the power-up state, where the I2C front-end has released the bus. -/

namespace Sys2Proof.Machine

theorem execReset_refused {s : State} (h : s.cfg.legal = false) : execReset s = .refused .badConfig := by
  simp [execReset, h]

/-- The block after RESET is the block at power-up, with what the environment does next and the bytes returned so far
(R127). -/
theorem State.resetBlock_eq_powerUp (s : State) :
    s.resetBlock = { State.powerUp s.cfg with input := s.input, returned := s.returned } := rfl

/-- Settles O32: the reset block is the power-up state. -/
theorem powerUpIsReset : Obligations.PowerUpIsReset :=
  fun s hl => (execReset_next s hl).trans (congrArg _ s.resetBlock_eq_powerUp)

/-- RESET leaves no event pending (R126). -/
theorem State.resetBlock_quiet (s : State) : s.resetBlock.Quiet := ⟨rfl, rfl, rfl⟩

/-- On a released bus a read clock delivers nothing (R65(e)). -/
theorem FrontEnd.i2cRead_idle {f : FrontEnd} (h : f.bus = .idle) : f.i2cRead = f := by
  simp [FrontEnd.i2cRead, h]

/-- On a released bus, with nothing pending, a read clock returns no byte: the step uses the slot up. -/
theorem step_i2cRead_idle {s : State} {rest : List (List Stimulus)} (hl : s.cfg.legal = true) (hq : s.Quiet)
    (hb : s.frontEnd.bus = .idle) (hin : s.input = [.i2cRead] :: rest) : step s = .next { s with input := rest } :=
  step_of_deliver_quiet hl hq hin (congrArg Except.ok (FrontEnd.i2cRead_idle hb))

/-- Settles O31: each element is read off the reset block, and a read clock after it finds the bus released, so also
where the RESET cut a read transfer. -/
theorem resetSetsEveryElement : Obligations.ResetSetsEveryElement := by
  refine fun s => ⟨fun hl => ?_, execReset_refused⟩
  obtain ⟨hreset, hi2c, huart⟩ := s.resetBlock_quiet
  refine ⟨s.resetBlock, execReset_next s hl, rfl, rfl, rfl, hreset, hi2c, huart, fun _ rest => ?_⟩
  exact step_i2cRead_idle (s := s.resetBlock.withInput ([.i2cRead] :: rest)) hl s.resetBlock_quiet rfl rfl

end Sys2Proof.Machine
end
